-- ==== Sys2Proof/Word.lean ====
section
/-!
DEFINITION. The storage word of GFCORE and the two kinds of operand number.

Every host access and every stored word is 64 bits (00_scope.md R6, `WORD`). A field element sits in the low `n` bits of
a word (R9, R22). Numbers of registers and buffers are finite types, so an operand out of range cannot be written down.
-/

namespace Sys2Proof

/-- One 64-bit word (R6 `WORD`, R62): bit 0 is the least significant bit (R8). -/
abbrev Word := BitVec 64

/-- The number of a scalar element register, `E0` to `E15` (R21, R91). -/
abbrev EReg := Fin 16

/-- The number of a polynomial buffer, `P0` to `P7` (R23, R91). -/
abbrev PReg := Fin 8

end Sys2Proof
end

