-- ==== Sys2Proof/Config.lean ====
section
/-!
DEFINITION. What one GFCORE fixes for its lifetime (00_scope.md R6), and the free values the spec leaves to the
environment (93_implementation_defined.md U7, U8).
-/

namespace Sys2Proof.Machine

/-- The two parameters of the block that the spec leaves to be given, as an argument of the model (R6, U1): the field
polynomials as integers. Each must be irreducible of its degree; `Params.Valid` in Safety.lean says so. -/
structure Params where
  /-- `POLY16`, the polynomial of GF(2^16), as a 17-bit integer. -/
  poly16 : BitVec 17
  /-- `POLY64`, the polynomial of GF(2^64), as a 65-bit integer. -/
  poly64 : BitVec 65
  deriving DecidableEq, Repr

end Sys2Proof.Machine

namespace Sys2Proof.Config

/-- The defaults of R6: x^16 + x^5 + x^3 + x + 1 and x^64 + x^4 + x^3 + x + 1 (D2; log entry 1). -/
def defaults : Machine.Params := ⟨0x1002B#17, 0x1000000000000001B#65⟩

/-- `M_MAX`, the largest basis span the tables hold (R6, D6). -/
def mMax : Nat := 16

/-- `CAP`, the capacity of each buffer in elements, `2^M_MAX` (R6, D5). -/
def cap : Nat := 65536

/-- `NREG`, the number of scalar registers (R6, D4). -/
def nReg : Nat := 16

/-- `NBUF`, the number of polynomial buffers (R6, D5). -/
def nBuf : Nat := 8

/-- What the entropy port delivers for the `k`-th draw that the pending words do not answer, in 16-bit mode: one of the
`2^16 - 1` nonzero elements, counted from 0 (R139, R140, U7). A free value: no body, so nothing can be proved of it beyond
its range (log entry 2). -/
opaque draw16 : Nat → Fin 0xFFFF

/-- The same in 64-bit mode: one of the `2^64 - 1` nonzero elements, counted from 0 (R139, R140, U7; log entry 2). -/
opaque draw64 : Nat → Fin 0xFFFF_FFFF_FFFF_FFFF

/-- Where the platform shows the window on a byte-addressed bus, counted in words. The spec leaves it to the platform and no
rule reads it (R63, U8; log entry 3). A free value: no body. -/
opaque windowSlot : Nat

/-- `WINDOW_BASE`, the byte address of the window in front of a platform bridge (R71): a multiple of 8, since the byte
addresses of words are multiples of 8 (R72; log entry 3). -/
def windowBase : Nat := 8 * windowSlot

end Sys2Proof.Config
end

