-- ==== Sys2Proof/Syntax.lean ====
section
/-!
DEFINITION. The command set of GFCORE: one constructor per row of spec/opcode_table.json (30_encoding.md R95).

Operands stand in the assembler order of R95. A field a format does not use has no place here (R93). The immediate is an
unsigned 32-bit number (R91).
-/

namespace Sys2Proof

/-- The 33 commands (R95). The spec calls them commands; they play the part of instructions (R2). -/
inductive Instr where
  /-- `NOP` (R240). -/
  | nop
  /-- `FADD Ed, Ea, Eb` (R130). -/
  | fadd (d a b : EReg)
  /-- `FSUB Ed, Ea, Eb` (R131). -/
  | fsub (d a b : EReg)
  /-- `FNEG Ed, Ea` (R132). -/
  | fneg (d a : EReg)
  /-- `FMUL Ed, Ea, Eb` (R133). -/
  | fmul (d a b : EReg)
  /-- `FMULN Ed, Ea, Eb` (R134). -/
  | fmuln (d a b : EReg)
  /-- `FSQR Ed, Ea` (R135). -/
  | fsqr (d a : EReg)
  /-- `FINV Ed, Ea` (R136). -/
  | finv (d a : EReg)
  /-- `FBFLY Ed, Ea, Eb` (R137). -/
  | fbfly (d a b : EReg)
  /-- `FIBFLY Ed, Ea, Eb` (R138). -/
  | fibfly (d a b : EReg)
  /-- `FRAND Ed` (R139). -/
  | frand (d : EReg)
  /-- `BASIS Ea, #m` (R152). -/
  | basis (a : EReg) (m : BitVec 32)
  /-- `RADIX Pd` (R162). -/
  | radix (d : PReg)
  /-- `IRADIX Pd` (R163). -/
  | iradix (d : PReg)
  /-- `FFT Pd` (R174). -/
  | fft (d : PReg)
  /-- `IFFT Pd` (R175). -/
  | ifft (d : PReg)
  /-- `FFTL Pd` (R177). -/
  | fftl (d : PReg)
  /-- `IFFTL Pd` (R178). -/
  | ifftl (d : PReg)
  /-- `FFTP Pd` (R181). -/
  | fftp (d : PReg)
  /-- `IFFTP Pd` (R182). -/
  | ifftp (d : PReg)
  /-- `EVAL Ed, Pa, Eb` (R194). -/
  | eval (d : EReg) (a : PReg) (b : EReg)
  /-- `PMULN Pd, Pa, Pb` (R196). -/
  | pmuln (d a b : PReg)
  /-- `PMUL Pd, Pa, Pb` (R201). -/
  | pmul (d a b : PReg)
  /-- `MULS Pd, Pa, Pb` (R198). -/
  | muls (d a b : PReg)
  /-- `SUBST Pd, Ea` (R206). -/
  | subst (d : PReg) (a : EReg)
  /-- `INVS Pd` (R208). -/
  | invs (d : PReg)
  /-- `PDIV Pd, Pa, Pb` (R211). -/
  | pdiv (d a b : PReg)
  /-- `ZPOLY Pd, Pa` (R213). -/
  | zpoly (d a : PReg)
  /-- `ENCODE Pd, Pa, #factor` (R221). -/
  | encode (d a : PReg) (factor : BitVec 32)
  /-- `RECOVER Pd, Pa, Pb, Ec, #dlen` (R226). -/
  | recover (d a b : PReg) (c : EReg) (dlen : BitVec 32)
  /-- `RESIZE Pd, #len` (R241). -/
  | resize (d : PReg) (len : BitVec 32)
  /-- `TRIM Pd` (R242). -/
  | trim (d : PReg)
  /-- `COPY Pd, Pa` (R243). -/
  | copy (d a : PReg)
  deriving DecidableEq, Repr

end Sys2Proof
end

