-- ==== Sys2Proof/WellFormed.lean ====
section
/-!
DEFINITION. Which commands can be written as a command word.

Operand numbers are in range by their type. The one coincidence the spec forbids is a butterfly on one register
(30_encoding.md R101); no other command has a condition, and range checks on operand values belong to the command's own
rule (R100).
-/

namespace Sys2Proof

/-- `FBFLY` and `FIBFLY` need two different registers `d` and `a`; every other command is well formed (R101). -/
def Instr.wellFormed : Instr → Bool
  | .fbfly d a _ => decide (d ≠ a)
  | .fibfly d a _ => decide (d ≠ a)
  | .nop | .fadd .. | .fsub .. | .fneg .. | .fmul .. | .fmuln .. | .fsqr .. | .finv .. | .frand .. | .basis ..
  | .radix .. | .iradix .. | .fft .. | .ifft .. | .fftl .. | .ifftl .. | .fftp .. | .ifftp .. | .eval .. | .pmuln ..
  | .pmul .. | .muls .. | .subst .. | .invs .. | .pdiv .. | .zpoly .. | .encode .. | .recover .. | .resize ..
  | .trim .. | .copy .. => true

end Sys2Proof
end

