-- ==== Sys2Proof/Decode.lean ====
section
/-!
DEFINITION. The command word (30_encoding.md): the formats and masks of R92, the opcode map of R95, the decoder of R100
and the encoder of R98.

`decode` is total on all `2^64` words and depends on nothing but the word (R100); a word that is no command is rejected by
name, and each of those names means `E_ILLEGAL` to the machine (R96).
-/

namespace Sys2Proof

/-- The 13 formats of R92, each under the spec's name with `f` before it. -/
inductive Format where
  | fN | fE3 | fE2 | fE1 | fBAS | fP1 | fP2 | fP3 | fEV | fPS | fPI | fENC | fREC
  deriving DecidableEq, Repr

/-- The mask column of R92: a 1 at every bit whose value is fixed for the command. -/
def Format.mask : Format → Word
  | .fN   => 0xFFFF_FFFF_FFFF_FFFF#64
  | .fE3  => 0xFF00_0FFF_FFFF_FFFF#64
  | .fE2  => 0xFF00_FFFF_FFFF_FFFF#64
  | .fE1  => 0xFF0F_FFFF_FFFF_FFFF#64
  | .fBAS => 0xFFF0_FFFF_0000_0000#64
  | .fP1  => 0xFF8F_FFFF_FFFF_FFFF#64
  | .fP2  => 0xFF88_FFFF_FFFF_FFFF#64
  | .fP3  => 0xFF88_8FFF_FFFF_FFFF#64
  | .fEV  => 0xFF08_0FFF_FFFF_FFFF#64
  | .fPS  => 0xFF80_FFFF_FFFF_FFFF#64
  | .fPI  => 0xFF8F_FFFF_0000_0000#64
  | .fENC => 0xFF88_FFFF_0000_0000#64
  | .fREC => 0xFF88_80FF_0000_0000#64

/-- The operand fields of a command word (R90); bits 39:32 hold no operand. -/
structure Fields where
  d : BitVec 4
  a : BitVec 4
  b : BitVec 4
  c : BitVec 4
  imm : BitVec 32
  deriving DecidableEq, Repr

/-- `op`, bits 63:56 (R90). -/
def opcodeOf (w : Word) : BitVec 8 := w.extractLsb' 56 8

/-- `d` is 55:52, `a` is 51:48, `b` is 47:44, `c` is 43:40, `imm` is 31:0 (R90). -/
def fieldsOf (w : Word) : Fields where
  d := w.extractLsb' 52 4
  a := w.extractLsb' 48 4
  b := w.extractLsb' 44 4
  c := w.extractLsb' 40 4
  imm := w.extractLsb' 0 32

/-- A field read as a scalar register number: all sixteen values are legal (R91). -/
def toEReg (x : BitVec 4) : EReg := x.toFin

/-- A field read as a buffer number: its low three bits; the mask has made bit 3 zero (R91, R93). -/
def toPReg (x : BitVec 4) : PReg := (x.setWidth 3).toFin

/-- A row of the opcode map (R95): the opcode, the format, and the command built from the fields the format uses. -/
structure Row where
  opcode : BitVec 8
  fmt : Format
  build : Fields → Instr

/-- The match value of a row: its opcode in bits 63:56 and zero everywhere else (R92). -/
def Row.matchWord (r : Row) : Word := r.opcode ++ 0#56

/-- The opcode map of R95, field kernel and basis rows. -/
def rowsKernel : List Row := [
  ⟨0x00#8, .fN,   fun _ => .nop⟩,
  ⟨0x10#8, .fE3,  fun f => .fadd (toEReg f.d) (toEReg f.a) (toEReg f.b)⟩,
  ⟨0x11#8, .fE3,  fun f => .fsub (toEReg f.d) (toEReg f.a) (toEReg f.b)⟩,
  ⟨0x12#8, .fE2,  fun f => .fneg (toEReg f.d) (toEReg f.a)⟩,
  ⟨0x13#8, .fE3,  fun f => .fmul (toEReg f.d) (toEReg f.a) (toEReg f.b)⟩,
  ⟨0x14#8, .fE3,  fun f => .fmuln (toEReg f.d) (toEReg f.a) (toEReg f.b)⟩,
  ⟨0x15#8, .fE2,  fun f => .fsqr (toEReg f.d) (toEReg f.a)⟩,
  ⟨0x16#8, .fE2,  fun f => .finv (toEReg f.d) (toEReg f.a)⟩,
  ⟨0x17#8, .fE3,  fun f => .fbfly (toEReg f.d) (toEReg f.a) (toEReg f.b)⟩,
  ⟨0x18#8, .fE3,  fun f => .fibfly (toEReg f.d) (toEReg f.a) (toEReg f.b)⟩,
  ⟨0x19#8, .fE1,  fun f => .frand (toEReg f.d)⟩,
  ⟨0x20#8, .fBAS, fun f => .basis (toEReg f.a) f.imm⟩]

/-- The opcode map of R95, radix and transform rows. -/
def rowsTransform : List Row := [
  ⟨0x30#8, .fP1, fun f => .radix (toPReg f.d)⟩,
  ⟨0x31#8, .fP1, fun f => .iradix (toPReg f.d)⟩,
  ⟨0x40#8, .fP1, fun f => .fft (toPReg f.d)⟩,
  ⟨0x41#8, .fP1, fun f => .ifft (toPReg f.d)⟩,
  ⟨0x42#8, .fP1, fun f => .fftl (toPReg f.d)⟩,
  ⟨0x43#8, .fP1, fun f => .ifftl (toPReg f.d)⟩,
  ⟨0x44#8, .fP1, fun f => .fftp (toPReg f.d)⟩,
  ⟨0x45#8, .fP1, fun f => .ifftp (toPReg f.d)⟩]

/-- The opcode map of R95, polynomial, erasure and buffer rows. -/
def rowsPoly : List Row := [
  ⟨0x50#8, .fEV,  fun f => .eval (toEReg f.d) (toPReg f.a) (toEReg f.b)⟩,
  ⟨0x51#8, .fP3,  fun f => .pmuln (toPReg f.d) (toPReg f.a) (toPReg f.b)⟩,
  ⟨0x52#8, .fP3,  fun f => .pmul (toPReg f.d) (toPReg f.a) (toPReg f.b)⟩,
  ⟨0x53#8, .fP3,  fun f => .muls (toPReg f.d) (toPReg f.a) (toPReg f.b)⟩,
  ⟨0x54#8, .fPS,  fun f => .subst (toPReg f.d) (toEReg f.a)⟩,
  ⟨0x55#8, .fP1,  fun f => .invs (toPReg f.d)⟩,
  ⟨0x56#8, .fP3,  fun f => .pdiv (toPReg f.d) (toPReg f.a) (toPReg f.b)⟩,
  ⟨0x57#8, .fP2,  fun f => .zpoly (toPReg f.d) (toPReg f.a)⟩,
  ⟨0x60#8, .fENC, fun f => .encode (toPReg f.d) (toPReg f.a) f.imm⟩,
  ⟨0x61#8, .fREC, fun f => .recover (toPReg f.d) (toPReg f.a) (toPReg f.b) (toEReg f.c) f.imm⟩,
  ⟨0x70#8, .fPI,  fun f => .resize (toPReg f.d) f.imm⟩,
  ⟨0x71#8, .fP1,  fun f => .trim (toPReg f.d)⟩,
  ⟨0x72#8, .fP2,  fun f => .copy (toPReg f.d) (toPReg f.a)⟩]

/-- The whole opcode map: 33 rows, pairwise different opcodes (R95). -/
def rows : List Row := rowsKernel ++ rowsTransform ++ rowsPoly

/-- Why a word is no command (R93, R96, R101). Each means `E_ILLEGAL`. -/
inductive Illegal where
  /-- The opcode is none of the 33 (R96). -/
  | unassignedOpcode
  /-- A field the format does not use is nonzero, `z` is nonzero, or a buffer number is 8 or more (R93). -/
  | fieldNotZero
  /-- `FBFLY` or `FIBFLY` with `d = a` (R101). -/
  | sameRegister
  deriving DecidableEq, Repr

/-- `decode` of R100: the row whose opcode the word has, the mask test `w & mask = match`, and the butterfly check. -/
def decode (w : Word) : Except Illegal Instr :=
  match rows.find? (fun r => r.opcode == opcodeOf w) with
  | none => .error .unassignedOpcode
  | some r =>
    if w &&& r.fmt.mask = r.matchWord then
      if (r.build (fieldsOf w)).wellFormed then .ok (r.build (fieldsOf w)) else .error .sameRegister
    else .error .fieldNotZero

/-- `word = op<<56 | d<<52 | a<<48 | b<<44 | c<<40 | imm`, with `z = 0` (R98). -/
def pack (op : BitVec 8) (d a b c : BitVec 4) (imm : BitVec 32) : Word :=
  op ++ d ++ a ++ b ++ c ++ 0#8 ++ imm

/-- A scalar register number as a field (R91). -/
def ofEReg (r : EReg) : BitVec 4 := BitVec.ofFin r

/-- A buffer number as a field: bit 3 is 0 (R91). -/
def ofPReg (r : PReg) : BitVec 4 := (BitVec.ofFin r : BitVec 3).setWidth 4

/-- The command word of a command, each unused field 0 (R95, R98). -/
def encode : Instr → Word
  | .nop              => pack 0x00#8 0 0 0 0 0
  | .fadd d a b       => pack 0x10#8 (ofEReg d) (ofEReg a) (ofEReg b) 0 0
  | .fsub d a b       => pack 0x11#8 (ofEReg d) (ofEReg a) (ofEReg b) 0 0
  | .fneg d a         => pack 0x12#8 (ofEReg d) (ofEReg a) 0 0 0
  | .fmul d a b       => pack 0x13#8 (ofEReg d) (ofEReg a) (ofEReg b) 0 0
  | .fmuln d a b      => pack 0x14#8 (ofEReg d) (ofEReg a) (ofEReg b) 0 0
  | .fsqr d a         => pack 0x15#8 (ofEReg d) (ofEReg a) 0 0 0
  | .finv d a         => pack 0x16#8 (ofEReg d) (ofEReg a) 0 0 0
  | .fbfly d a b      => pack 0x17#8 (ofEReg d) (ofEReg a) (ofEReg b) 0 0
  | .fibfly d a b     => pack 0x18#8 (ofEReg d) (ofEReg a) (ofEReg b) 0 0
  | .frand d          => pack 0x19#8 (ofEReg d) 0 0 0 0
  | .basis a m        => pack 0x20#8 0 (ofEReg a) 0 0 m
  | .radix d          => pack 0x30#8 (ofPReg d) 0 0 0 0
  | .iradix d         => pack 0x31#8 (ofPReg d) 0 0 0 0
  | .fft d            => pack 0x40#8 (ofPReg d) 0 0 0 0
  | .ifft d           => pack 0x41#8 (ofPReg d) 0 0 0 0
  | .fftl d           => pack 0x42#8 (ofPReg d) 0 0 0 0
  | .ifftl d          => pack 0x43#8 (ofPReg d) 0 0 0 0
  | .fftp d           => pack 0x44#8 (ofPReg d) 0 0 0 0
  | .ifftp d          => pack 0x45#8 (ofPReg d) 0 0 0 0
  | .eval d a b       => pack 0x50#8 (ofEReg d) (ofPReg a) (ofEReg b) 0 0
  | .pmuln d a b      => pack 0x51#8 (ofPReg d) (ofPReg a) (ofPReg b) 0 0
  | .pmul d a b       => pack 0x52#8 (ofPReg d) (ofPReg a) (ofPReg b) 0 0
  | .muls d a b       => pack 0x53#8 (ofPReg d) (ofPReg a) (ofPReg b) 0 0
  | .subst d a        => pack 0x54#8 (ofPReg d) (ofEReg a) 0 0 0
  | .invs d           => pack 0x55#8 (ofPReg d) 0 0 0 0
  | .pdiv d a b       => pack 0x56#8 (ofPReg d) (ofPReg a) (ofPReg b) 0 0
  | .zpoly d a        => pack 0x57#8 (ofPReg d) (ofPReg a) 0 0 0
  | .encode d a k     => pack 0x60#8 (ofPReg d) (ofPReg a) 0 0 k
  | .recover d a b c l => pack 0x61#8 (ofPReg d) (ofPReg a) (ofPReg b) (ofEReg c) l
  | .resize d l       => pack 0x70#8 (ofPReg d) 0 0 0 l
  | .trim d           => pack 0x71#8 (ofPReg d) 0 0 0 0
  | .copy d a         => pack 0x72#8 (ofPReg d) (ofPReg a) 0 0 0

/-- A command as the opcode table numbers its bits: one 64-bit word, bit 0 the least significant; the bits at or above
`nbits` are 0 (R90). -/
def tableWord (nbits w : Nat) : Word := BitVec.ofNat 64 (w % 2 ^ nbits)

/-- The command the decoder reads from a word given as the opcode table numbers its bits. -/
def decodeTableWord (nbits w : Nat) : Option Instr :=
  match decode (tableWord nbits w) with
  | .ok i => some i
  | .error _ => none

end Sys2Proof
end

