-- ==== Sys2Proof/Machine/State.lean ====
section
/-!
DEFINITION. The state of GFCORE (10_state.md R20) as plain data, the reasons a step can stop, and the state after reset
(R38, 70_reset_and_hazards.md R290).

Two groups of fields follow the spec's own state: the environment (the host's accesses to come, the entropy port, the order
in which the two FFT workers move), which the spec names as agents (00_scope.md R12) and gives no storage; and the word the
last host read returned. They are the MODEL'S OWN fields (log entries 2, 4, 5, 6). The parameters of R6, which are
configuration and fixed for the life of the block, stand in the state too, so that every step takes them as an argument (log
entry 1).
-/

namespace Sys2Proof.Machine

/-- Why the machine stops with a fault: NOTHING in the spec does. Every error of a command is an architectural event after
which the block goes on (60_exceptions.md R262), every command terminates (70_reset_and_hazards.md R304), and a refused host
access has a stated effect (20_memory.md R70). So the type has no constructor: no one raises a fault (safe). -/
inductive Fault where
  deriving DecidableEq, Repr

/-- Why a step has no meaning. -/
inductive Refusal where
  /-- Raised by an arm of `exec` whose command has no meaning yet; no arm does (safe: the machine stops). -/
  | notModelled (mnemonic : String)
  /-- Raised by the step when the next input is a bus access that a platform bridge must not forward: one that is not
  exactly eight bytes at a word's address. The spec gives such an access no meaning and says a model takes no step
  (20_memory.md R72, 93_implementation_defined.md U8) (safe: the machine stops). -/
  | busAccessNotForwarded
  deriving DecidableEq, Repr

/-- The active field, `CTRL.WIDTH` (R25): 0 selects GF(2^16), 1 selects GF(2^64). -/
inductive Width where
  | gf16
  | gf64
  deriving DecidableEq, Repr

/-- The two workers of the concurrent transforms (00_scope.md R12, 43_fft.md R183). -/
inductive Worker where
  | worker0
  | worker1
  deriving DecidableEq, Repr

/-- A host access: `MemRead(off, 1)` or `MemWrite(off, 1, v)` at a word offset (20_memory.md R62). -/
inductive Access where
  | read (off : Nat)
  | write (off : Nat) (v : Word)
  deriving DecidableEq, Repr

/-- An access on the byte-addressed bus of a platform bridge, before the bridge (R71, R72): `size` bytes read at a byte
address, or a list of bytes written from a byte address upwards. -/
inductive BusAccess where
  | read (addr size : Nat)
  | write (addr : Nat) (bytes : List (BitVec 8))
  deriving DecidableEq, Repr

/-- What the outside world does next: a host access, a bus access for the bridge to translate, an assertion of the reset
input `rst` (R290), or nothing while the engine runs. -/
inductive Input where
  | access (a : Access)
  | bus (b : BusAccess)
  | rst
  | idle
  deriving DecidableEq, Repr

/-- The eight polynomial buffers (R23, R35): buffer `b` is the list of its `LEN[b]` architectural elements, so `LEN[b]` is
the list's length and a word at or beyond `LEN[b]` does not exist (93_implementation_defined.md U3; log entry 7). -/
abbrev Memory := Vector (List Word) 8

/-- The canonical form of the buffers in a field of width `n`: every length is at most `CAP` (R23) and every element is
below `2^n` (R22). -/
def Memory.wf (n : Nat) (m : Memory) : Bool :=
  m.toList.all fun p => decide (p.length ≤ Config.cap) && p.all fun w => decide (w.toNat < 2 ^ n)

/-- The state of GFCORE. -/
structure State where
  /-- The scalar element registers `E[0..15]` (R21). -/
  e : Vector Word 16
  /-- The polynomial buffers `P[0..7]` with their lengths `LEN[0..7]` (R23, R35). -/
  mem : Memory
  /-- `BASIS_M`, the span of the active basis, 0 when there is none (R28). -/
  basisM : Nat
  /-- `BASIS[0 .. BASIS_M)` (R29). -/
  basis : List Word
  /-- `COMB[0 .. 2^BASIS_M)` (R30). -/
  comb : List Word
  /-- `SUB[0 .. 2^(BASIS_M - 1))` (R31). -/
  sub : List Word
  /-- `CTRL.WIDTH` (R25). -/
  width : Width
  /-- `CTRL.IE_DONE` (R25). -/
  ieDone : Bool
  /-- `CTRL.IE_ERR` (R25). -/
  ieErr : Bool
  /-- The command word in flight between acceptance and completion (R36); `STATUS.BUSY` is 1 exactly when there is one
  (R26, 46_buffer_system.md R245). -/
  inflight : Option Word
  /-- `STATUS.DONE` (R26). -/
  done : Bool
  /-- `STATUS.ERRF` (R26). -/
  errf : Bool
  /-- `STATUS.BUSERR` (R26). -/
  buserr : Bool
  /-- `STATUS.CMDDROP` (R26). -/
  cmddrop : Bool
  /-- `STATUS.ERR`, the error code (R26, 60_exceptions.md R260). -/
  err : BitVec 8
  /-- `ERRINFO` (R27). -/
  errinfo : Word
  /-- `ERRCMD` (R27). -/
  errcmd : Word
  /-- The outside world's actions to come, in order: the agent HOST and the reset input (R12, R24, R75; log entry 4). -/
  inputs : List Input
  /-- The words the agent ENTROPY delivers next, in order (R140; log entry 2). -/
  entropy : List Word
  /-- Whether the entropy port, after those words, delivers zero for ever (93_implementation_defined.md U7). -/
  entropyDead : Bool
  /-- How many draws the pending words did not answer: the index of the next free value (log entry 2). -/
  draws : Nat
  /-- Which worker moves next inside a concurrent transform, in order (43_fft.md R183; log entry 5). -/
  turns : List Worker
  /-- The word the last host read returned (R62; log entry 6). -/
  rdata : Word
  /-- `POLY16` and `POLY64`, the argument of R6: configuration that no step and no reset changes (70_reset_and_hazards.md
  R291; log entry 1). -/
  params : Params
  deriving DecidableEq, Repr

/-- `n`, the width of the active field in bits (R6). -/
def Width.bits : Width → Nat
  | .gf16 => 16
  | .gf64 => 64

/-- The state after a hard reset (R38, R290): everything observable is 0 and nothing is in flight. The environment fields
are empty (log entries 2, 4, 5, 6), and the parameters have the default values of R6 (log entry 1). -/
def State.reset : State where
  e := Vector.replicate 16 0#64
  mem := Vector.replicate 8 []
  basisM := 0
  basis := []
  comb := []
  sub := []
  width := .gf16
  ieDone := false
  ieErr := false
  inflight := none
  done := false
  errf := false
  buserr := false
  cmddrop := false
  err := 0#8
  errinfo := 0#64
  errcmd := 0#64
  inputs := []
  entropy := []
  entropyDead := false
  draws := 0
  turns := []
  rdata := 0#64
  params := Config.defaults

end Sys2Proof.Machine
end

