-- ==== Sys2Proof/Machine/Field.lean ====
section
/-!
DEFINITION. The pure functions of the Field Kernel (40_field_kernel.md R120 to R127) on words, for a field given by its
width and the low part of its polynomial.

Nothing here depends on the state. `GF.mul` is the two-step multiplier of R123 (carry-less product, then reduction) and
`GF.mulNaive` the reference multiplier of R122: two separate definitions, as R134 offers, so that their agreement is a claim.
-/

namespace Sys2Proof.Machine

/-- A binary field as the functions need it: `n` and `RED_n`, that is `POLY_n` without its top term (R6, R120). -/
structure GF where
  n : Nat
  red : Word
  deriving DecidableEq, Repr

/-- `RED_n` of a polynomial given as an `(n+1)`-bit integer (R6). -/
def redOf (n poly : Nat) : Word := BitVec.ofNat 64 (poly % 2 ^ n)

/-- The field of each width under the given polynomials (R6, R120). -/
def Params.field (P : Params) : Width → GF
  | .gf16 => ⟨16, redOf 16 P.poly16.toNat⟩
  | .gf64 => ⟨64, redOf 64 P.poly64.toNat⟩

/-- GF(2^16) with the default polynomial (R6). -/
def GF.gf16 : GF := Params.field Config.defaults .gf16

/-- GF(2^64) with the default polynomial (R6). -/
def GF.gf64 : GF := Params.field Config.defaults .gf64

/-- `MASK_n = 2^n - 1` (R8). -/
def GF.mask (F : GF) : Word := BitVec.ofNat 64 (2 ^ F.n - 1)

/-- Hands the value of `w` on to `k`, evaluated: it is `k w` (`force_eq` in Laws/Field.lean), written so that an evaluator
computes `w` once before it goes on. -/
def force {α : Type} (w : Word) (k : Word → α) : α :=
  match w.toNat with
  | 0 => k 0#64
  | v + 1 => k (BitVec.ofNat 64 (v + 1))

/-- The two statements of R122 that multiply `a` by `x`: shift inside the field, then reduce by `RED_n` on a carry. -/
def GF.xtime (F : GF) (a : Word) : Word :=
  if a.getLsbD (F.n - 1) then ((a <<< 1) &&& F.mask) ^^^ F.red else (a <<< 1) &&& F.mask

/-- One turn of the loop of R122, on the pair `(acc, a)`. -/
def GF.naiveStep (F : GF) (b : Word) (s : Word × Word) (i : Nat) : Word × Word :=
  (if b.getLsbD i then s.1 ^^^ s.2 else s.1, F.xtime s.2)

/-- `mul_naive(a, b)`, the reference shift-and-add multiplier (R122). -/
def GF.mulNaive (F : GF) (a b : Word) : Word :=
  force a fun a => force b fun b => ((List.range F.n).foldl (F.naiveStep b) (0#64, a)).1

/-- The carry-less product of two `n`-bit words, `2n - 1` bits (R123). -/
def GF.clmul (F : GF) (a b : Word) : BitVec 128 :=
  (List.range F.n).foldl (fun c i => if b.getLsbD i then c ^^^ (a.setWidth 128 <<< i) else c) 0#128

/-- `POLY_n` as a bit vector wide enough for the reduction of R123. -/
def GF.poly (F : GF) : BitVec 128 := (1#128 <<< F.n) ||| F.red.setWidth 128

/-- The reduction of R123: for `i` from `2n - 2` down to `n`, clear bit `i` by `POLY_n << (i - n)`; here `t = i - n`, and the
fold from the right takes the largest `t` first. -/
def GF.reduce (F : GF) (c : BitVec 128) : Word :=
  ((List.range (F.n - 1)).foldr (fun t c => if c.getLsbD (F.n + t) then c ^^^ (F.poly <<< t) else c) c).setWidth 64

/-- `mul(a, b)`, the multiplier of every command but `FMULN` (R123). -/
def GF.mul (F : GF) (a b : Word) : Word :=
  force a fun a => force b fun b => F.reduce (F.clmul a b)

/-- `sqr(a) = mul(a, a)` (R124). -/
def GF.sqr (F : GF) (a : Word) : Word := F.mul a a

/-- One link of the inversion chain, on the pair `(r, x)`: square `x`, multiply it into `r` (R125). -/
def GF.invStep (F : GF) (rx : Word × Word) : Word × Word :=
  (F.mul rx.1 (F.sqr rx.2), F.sqr rx.2)

/-- `inv(a) = a^(2^n - 2)` (R125), by squarings and multiplies only: the product of `a^(2^i)` for `i` in `[1, n)`, whose
exponents sum to `2^n - 2`. The chain is not architectural (D30; log entry 8). -/
def GF.inv (F : GF) (a : Word) : Word :=
  ((List.range (F.n - 1)).foldl (fun rx _ => F.invStep rx) (1#64, a)).1

/-- `bfly(k, k2, g)`: `k' = k + mul(g, k2)`, then `k2' = k2 + k'` (R126). -/
def GF.bfly (F : GF) (k k2 g : Word) : Word × Word :=
  (k ^^^ F.mul g k2, k2 ^^^ (k ^^^ F.mul g k2))

/-- `ibfly(k, k2, g)`: `k2' = k2 + k`, then `k' = k + mul(g, k2')` (R127). -/
def GF.ibfly (F : GF) (k k2 g : Word) : Word × Word :=
  (k ^^^ F.mul g (k2 ^^^ k), k2 ^^^ k)

end Sys2Proof.Machine
end

