-- ==== Sys2Proof/Machine/Operands.lean ====
section
/-!
DEFINITION. The operand forms of GFCORE (46_buffer_system.md R249): "scalar register direct" and "whole buffer direct", and
the active basis that the transforms read. Every read and write of a register, a buffer or the tables goes through these.
-/

namespace Sys2Proof.Machine

/-- The active field: the polynomial of the parameters that `CTRL.WIDTH` selects (R6, R25, R120). -/
def State.field (s : State) : GF := s.params.field s.width

/-- A read of a scalar register gives its low `n` bits (R129, R64). -/
def State.readE (s : State) (i : EReg) : Word := s.e[i] &&& s.field.mask

/-- `E[i] <- v` (R10, R21): no register is hard-wired. -/
def State.writeE (s : State) (i : EReg) (v : Word) : State := { s with e := s.e.set i v }

/-- `P[b]`, the whole buffer as a list of `LEN[b]` elements (R10, R35). -/
def State.buf (s : State) (b : PReg) : List Word := s.mem[b]

/-- `LEN[b]` (R23). -/
def State.len (s : State) (b : PReg) : Nat := (s.buf b).length

/-- `P[b] <- L`: writes the list and sets `LEN[b] <- len(L)` (R10). -/
def State.setBuf (s : State) (b : PReg) (p : List Word) : State := { s with mem := s.mem.set b p }

/-- `N = 2^m`, the domain length of the active basis (R170). -/
def State.domain (s : State) : Nat := 2 ^ s.basisM

/-- Replaces the active basis as a whole (R28, R152). -/
def State.setBasis (s : State) (m : Nat) (basis comb sub : List Word) : State :=
  { s with basisM := m, basis := basis, comb := comb, sub := sub }

/-- What is left at the entropy port after a draw (R140). -/
def State.setEntropy (s : State) (ws : List Word) : State := { s with entropy := ws }

/-- Counts one draw that the pending words did not answer (log entry 2). -/
def State.nextDraw (s : State) : State := { s with draws := s.draws + 1 }

/-- What is left of the workers' order after a concurrent transform (log entry 5). -/
def State.setTurns (s : State) (ts : List Worker) : State := { s with turns := ts }

end Sys2Proof.Machine
end

