-- ==== Sys2Proof/Machine/Flags.lean ====
section
/-!
DEFINITION. The status, control and error words as software reads them (10_state.md R25 to R27, R33, R34), the error codes
(60_exceptions.md R260) and the interrupt line (R268). No command computes an arithmetic flag (R37).
-/

namespace Sys2Proof.Machine

/-- The nine errors of R260. -/
inductive ErrKind where
  | construction
  | length
  | sample
  | recon
  | illegal
  | noBasis
  | span
  | capacity
  | roots
  deriving DecidableEq, Repr

/-- The code of an error as `STATUS.ERR` holds it (R260). -/
def ErrKind.code : ErrKind → BitVec 8
  | .construction => 0x01#8
  | .length       => 0x02#8
  | .sample       => 0x03#8
  | .recon        => 0x04#8
  | .illegal      => 0x10#8
  | .noBasis      => 0x11#8
  | .span         => 0x12#8
  | .capacity     => 0x13#8
  | .roots        => 0x14#8

/-- `ERRINFO`: `SUB` in bits 63:56, zero in 55:32, `VAL` cut to 32 bits in 31:0 (R27, R261). -/
def errinfoWord (sub : BitVec 8) (val : Nat) : Word := sub ++ 0#24 ++ BitVec.ofNat 32 val

/-- `STATUS.BUSY`: a command is in flight (R26, R245). -/
def State.busy (s : State) : Bool := s.inflight.isSome

/-- `STATUS` as it reads: `BASIS_M` in 23:16, `ERR` in 15:8, `CMDDROP` 4, `BUSERR` 3, `ERRF` 2, `DONE` 1, `BUSY` 0, every other
bit 0 (R26). -/
def State.statusWord (s : State) : Word :=
  0#40 ++ BitVec.ofNat 8 s.basisM ++ s.err ++ 0#3 ++ BitVec.ofBool s.cmddrop ++ BitVec.ofBool s.buserr
    ++ BitVec.ofBool s.errf ++ BitVec.ofBool s.done ++ BitVec.ofBool s.busy

/-- `CTRL.WIDTH` as its bit (R25). -/
def Width.toBool : Width → Bool
  | .gf16 => false
  | .gf64 => true

/-- The field a written `CTRL.WIDTH` bit selects (R25). -/
def Width.ofBool : Bool → Width
  | false => .gf16
  | true => .gf64

/-- `CTRL` as it reads: `IE_ERR` 2, `IE_DONE` 1, `WIDTH` 0; reserved bits and `SRST` read 0 (R25). -/
def State.ctrlWord (s : State) : Word :=
  0#61 ++ BitVec.ofBool s.ieErr ++ BitVec.ofBool s.ieDone ++ BitVec.ofBool s.width.toBool

/-- `ID`, the ASCII bytes "GFCORE" and version 1 (R33). -/
def idWord : Word := 0x4746_434F_5245_0001#64

/-- `PARAM`: `NREG`, `NBUF`, `log2(CAP)`, `M_MAX`, a byte each, above them 0 (R34). -/
def paramWord : Word :=
  0#32 ++ BitVec.ofNat 8 Config.nReg ++ BitVec.ofNat 8 Config.nBuf ++ BitVec.ofNat 8 (Nat.log2 Config.cap)
    ++ BitVec.ofNat 8 Config.mMax

/-- The interrupt request line, a level: `(DONE and IE_DONE) or (ERRF and IE_ERR)` (R268). -/
def State.irq (s : State) : Bool := (s.done && s.ieDone) || (s.errf && s.ieErr)

end Sys2Proof.Machine
end

