-- ==== Sys2Proof/Machine/Ops.lean ====
section
/-!
DEFINITION. The shared operations of every command: completion (46_buffer_system.md R246), raising an error and leaving the
error state (60_exceptions.md R262, R271), the two resets and the width change (R290, R292, R39), and the list helpers the
families share (44_poly.md R191).
-/

namespace Sys2Proof.Machine

/-- What a step or a command answers. -/
abbrev Result := Host.Outcome State Fault Refusal

/-- The completion step without an error: `BUSY <- 0`, `DONE <- 1` (R246). -/
def State.complete (s : State) : State := { s with inflight := none, done := true }

/-- `raise <Error>(sub, val)` of the command word `w` (R262): the six assignments, on the state before the command. -/
def State.fail (s : State) (w : Word) (k : ErrKind) (sub : BitVec 8) (val : Nat) : State :=
  { s with
    err := k.code
    errf := true
    errinfo := errinfoWord sub val
    errcmd := w
    inflight := none
    done := true }

/-- A command ends without an error in the state its writes have left (R246). -/
def finish (s : State) : Result := .next s.complete

/-- A command ends with an error; nothing it would have written is written (R262). -/
def raise (w : Word) (k : ErrKind) (sub : BitVec 8) (val : Nat) (s : State) : Result := .next (s.fail w k sub val)

/-- Leaving the error state: `ERRF`, `ERR`, `ERRINFO` and `ERRCMD` become 0 and nothing else changes (R271). -/
def State.clearError (s : State) : State :=
  { s with errf := false, err := 0#8, errinfo := 0#64, errcmd := 0#64 }

/-- The reset state in the same environment: what hard and soft reset leave (R290, R292). The environment fields are outside
the block and are not reset (log entry 4), and neither are the parameters (R291). -/
def State.toReset (s : State) : State :=
  { State.reset with
    inputs := s.inputs
    entropy := s.entropy
    entropyDead := s.entropyDead
    draws := s.draws
    turns := s.turns
    rdata := s.rdata
    params := s.params }

/-- What a change of `CTRL.WIDTH` clears: every `E`, every `LEN` and the basis (R39). -/
def State.clearElements (s : State) : State :=
  { s with
    e := Vector.replicate 16 0#64
    mem := Vector.replicate 8 []
    basisM := 0
    basis := []
    comb := []
    sub := [] }

/-- `zeros(k)` (R10). -/
def zeros (k : Nat) : List Word := List.replicate k 0#64

/-- Two lists added element by element, as long as the first where both have that many (R121). -/
def xorList (p q : List Word) : List Word := List.zipWith (· ^^^ ·) p q

/-- The number of coefficients up to the last nonzero one: `deg(p) + 1`, 0 when there is none (R191). -/
def coeffCount : List Word → Nat
  | [] => 0
  | c :: cs =>
    match coeffCount cs with
    | 0 => if c = 0#64 then 0 else 1
    | k + 1 => k + 2

/-- `deg(p)`: the largest `i` with `p[i]` nonzero, or -1 (R191). -/
def deg (p : List Word) : Int := (coeffCount p : Int) - 1

/-- `trim(p) = p[0 .. deg(p)]` (R191). -/
def trim (p : List Word) : List Word := p.take (coeffCount p)

/-- `expand(p, L) = p ++ zeros(L - len(p))` (R191). -/
def expand (p : List Word) (L : Nat) : List Word := p ++ zeros (L - p.length)

/-- Whether a length is a power of two (R162); 0 is not. -/
def isPow2 (L : Nat) : Bool := decide (2 ^ L.log2 = L)

/-- Applies `f` to the first `n` blocks of `d` consecutive elements; the elements after them stay (R160, R170). -/
def mapBlocks (f : List Word → List Word) (d : Nat) : Nat → List Word → List Word
  | 0, p => p
  | n + 1, p => f (p.take d) ++ mapBlocks f d n (p.drop d)

end Sys2Proof.Machine
end

