-- ==== Sys2Proof/Machine/Basis.lean ====
section
/-!
DEFINITION. The Basis Builder (41_basis.md): the tower, the tables and the command BASIS.
-/

namespace Sys2Proof.Machine

/-- `k` tower elements from `b` on: each next one is `sqr(b) + b` (R150). -/
def towerFrom (F : GF) : Nat → Word → List Word
  | 0, _ => []
  | k + 1, b => b :: towerFrom F k (F.sqr b ^^^ b)

/-- `tower(g0)`, the list `b[0..n-1]` (R150). -/
def tower (F : GF) (g0 : Word) : List Word := towerFrom F F.n g0

/-- The last `m` tower elements, `basis[t] = b[n - m + t]` (R151). -/
def retained (F : GF) (g0 : Word) (m : Nat) : List Word := (tower F g0).drop (F.n - m)

/-- One turn of the outer loop of R153: `comb[2^i + j] = comb[j] + basis[m-1-i]` for the `2^i` entries there are. -/
def combStep (basis : List Word) (m : Nat) (comb : List Word) (i : Nat) : List Word :=
  comb ++ comb.map (· ^^^ basis.getD (m - 1 - i) 0#64)

/-- `combinations(basis, m)` (R153). -/
def combinations (basis : List Word) (m : Nat) : List Word := (List.range m).foldl (combStep basis m) [0#64]

/-- The entries at even indices, `sub[k] = comb[2k]` (R154). -/
def evens : List Word → List Word
  | [] => []
  | [a] => [a]
  | a :: _ :: rest => a :: evens rest

/-- `BASIS Ea, #m` (R152): `E_SPAN` for a span outside `1 .. min(n, M_MAX)`, then `E_CONSTRUCTION` unless the tower ends in
One, then the tables are replaced as a whole. -/
def execBasis (a : EReg) (m : BitVec 32) (s : State) : Result :=
  let F := s.field
  let g0 := s.readE a
  if m.toNat < 1 ∨ min F.n Config.mMax < m.toNat then raise (encode (.basis a m)) .span 0#8 m.toNat s
  else if (tower F g0).getLast? ≠ some 1#64 then raise (encode (.basis a m)) .construction 0#8 0 s
  else
    let basis := retained F g0 m.toNat
    let comb := combinations basis m.toNat
    finish (s.setBasis m.toNat basis comb (evens comb))

end Sys2Proof.Machine
end

