-- ==== Sys2Proof/Machine/Buffer.lean ====
section
/-!
DEFINITION. The buffer and system commands (46_buffer_system.md): NOP RESIZE TRIM COPY.
-/

namespace Sys2Proof.Machine

/-- `NOP`: reads and writes nothing, and completes like every command (R240). -/
def execNop (s : State) : Result := finish s

/-- The list of a buffer resized to `len`: zero-filled when it grows, cut when it shrinks (R241). -/
def resizeList (p : List Word) (len : Nat) : List Word :=
  if p.length ≤ len then p ++ zeros (len - p.length) else p.take len

/-- `RESIZE Pd, #len` (R241). -/
def execResize (d : PReg) (len : BitVec 32) (s : State) : Result :=
  if Config.cap < len.toNat then raise (encode (.resize d len)) .capacity 0#8 len.toNat s
  else finish (s.setBuf d (resizeList (s.buf d) len.toNat))

/-- `TRIM Pd`: `P[d] <- trim(P[d])` (R242). -/
def execTrim (d : PReg) (s : State) : Result := finish (s.setBuf d (trim (s.buf d)))

/-- `COPY Pd, Pa`: `P[d] <- P[a]` (R243). -/
def execCopy (d a : PReg) (s : State) : Result := finish (s.setBuf d (s.buf a))

end Sys2Proof.Machine
end

