-- ==== Sys2Proof/Machine/Radix.lean ====
section
/-!
DEFINITION. The Radix Converter (42_radix.md): the Taylor expansion at `x^2 + x` and the commands RADIX and IRADIX.

One block of `d = 4 * d4` elements is four quarters `q0 q1 q2 q3`; the two statements of R160 for all `k` in `[0, d4)` are
the two list additions below, in the order the rule gives them.
-/

namespace Sys2Proof.Machine

/-- Quarter `j` of a block whose quarters have `d4` elements. -/
def quarter (d4 j : Nat) (blk : List Word) : List Word := (blk.drop (j * d4)).take d4

/-- `p[d2+k] += p[d2+d4+k]`, then `p[d4+k] += p[d2+k]`, which reads the value just written (R160). -/
def radixBlock (d4 : Nat) (blk : List Word) : List Word :=
  let q2 := xorList (quarter d4 2 blk) (quarter d4 3 blk)
  let q1 := xorList (quarter d4 1 blk) q2
  quarter d4 0 blk ++ q1 ++ q2 ++ quarter d4 3 blk

/-- The same two statements in the opposite order, each unchanged (R161). -/
def iradixBlock (d4 : Nat) (blk : List Word) : List Word :=
  let q1 := xorList (quarter d4 1 blk) (quarter d4 2 blk)
  let q2 := xorList (quarter d4 2 blk) (quarter d4 3 blk)
  quarter d4 0 blk ++ q1 ++ q2 ++ quarter d4 3 blk

/-- The values of `i` in the order the two outer loops of R160 give them: for `r` in `[0, m-1)`, for `i` in `[0, m-r-1)`. -/
def radixSweeps (m : Nat) : List Nat := (List.range (m - 1)).flatMap fun r => List.range (m - r - 1)

/-- One sweep at `i`: the `2^i` blocks of `d = 2^(m-i)` elements (R160). -/
def sweep (f : Nat → List Word → List Word) (m : Nat) (p : List Word) (i : Nat) : List Word :=
  mapBlocks (f (2 ^ (m - i - 2))) (2 ^ (m - i)) (2 ^ i) p

/-- `radix(p)` for a list of `2^m` elements (R160). -/
def radix (m : Nat) (p : List Word) : List Word := (radixSweeps m).foldl (sweep radixBlock m) p

/-- `iradix(p)`: the sweeps in reverse, the two statements swapped (R161, 90_conflicts.md C3). -/
def iradix (m : Nat) (p : List Word) : List Word := (radixSweeps m).reverse.foldl (sweep iradixBlock m) p

/-- The check and the write that RADIX and IRADIX share: `m` comes from the buffer's length and no basis is needed (R162). -/
def convert (w : Word) (f : Nat → List Word → List Word) (d : PReg) (s : State) : Result :=
  if isPow2 (s.len d) then finish (s.setBuf d (f (s.len d).log2 (s.buf d)))
  else raise w .length 1#8 (s.len d) s

/-- `RADIX Pd` (R162). -/
def execRadix (d : PReg) (s : State) : Result := convert (encode (.radix d)) radix d s

/-- `IRADIX Pd` (R163). -/
def execIradix (d : PReg) (s : State) : Result := convert (encode (.iradix d)) iradix d s

end Sys2Proof.Machine
end

