-- ==== Sys2Proof/Machine/Fft.lean ====
section
/-!
DEFINITION. The Additive FFT Engine (43_fft.md): the lazy and full transforms, their concurrent form with two workers, and
the commands FFT IFFT FFTL IFFTL FFTP IFFTP.

The sequential transforms work block by block: blocks of one level have disjoint index ranges, so the order of blocks and of
the pairs in a block cannot be observed (R184). The concurrent transforms keep the indices of R171 and R180: each worker has
its own list of butterflies on the one shared buffer, and the two lists are interleaved as the state's `turns` say (R183).
-/

namespace Sys2Proof.Machine

/-- The leaf pass: `p[i+h] += p[i]` for `i` in `[0, h)`, `h = 2^(m-1)` (R171). -/
def leafPass (m : Nat) (p : List Word) : List Word :=
  p.take (2 ^ (m - 1)) ++ xorList (p.drop (2 ^ (m - 1))) (p.take (2 ^ (m - 1)))

/-- One block of a merge level, `2d` elements: the pair `(k, k+d)` for every `k` in the lower half, by a butterfly with
twiddle `g` (R171, R180). -/
def mergeBlock (f : Word → Word → Word → Word × Word) (d : Nat) (g : Word) (blk : List Word) : List Word :=
  let pairs := List.zipWith (fun k k2 => f k k2 g) (blk.take d) (blk.drop d)
  pairs.map Prod.fst ++ pairs.map Prod.snd

/-- A merge level: block `j` of `2d` elements with the `j`-th twiddle of the list (R170, R171). -/
def mergeBlocks (f : Word → Word → Word → Word × Word) (d : Nat) : List Word → List Word → List Word
  | [], p => p
  | g :: gs, p => mergeBlock f d g (p.take (2 * d)) ++ mergeBlocks f d gs (p.drop (2 * d))

/-- Merge level `i`: distance `d = 2^(m-1-i)`, `2^i` blocks, twiddles `SUB[0 .. 2^i)` (R170). -/
def mergeLevel (f : Word → Word → Word → Word × Word) (m : Nat) (sub : List Word) (p : List Word) (i : Nat) : List Word :=
  mergeBlocks f (2 ^ (m - 1 - i)) (sub.take (2 ^ i)) p

/-- `fftl(p)`, the lazy forward transform (R171). -/
def fftl (F : GF) (m : Nat) (sub p : List Word) : List Word :=
  (List.range' 1 (m - 1)).foldl (mergeLevel F.bfly m sub) (leafPass m p)

/-- `ifftl(p)`, the lazy inverse transform (R180). -/
def ifftl (F : GF) (m : Nat) (sub p : List Word) : List Word :=
  leafPass m ((List.range' 1 (m - 1)).reverse.foldl (mergeLevel F.ibfly m sub) p)

/-- `fft(p) = fftl(radix(p))` (R173). -/
def fft (F : GF) (m : Nat) (sub p : List Word) : List Word := fftl F m sub (radix m p)

/-- `ifft(p) = iradix(ifftl(p))` (R173). -/
def ifft (F : GF) (m : Nat) (sub p : List Word) : List Word := iradix m (ifftl F m sub p)

/-- A butterfly a worker still has to do: the two indices and the twiddle (R171, R183). -/
structure Pair where
  k : Nat
  k2 : Nat
  g : Word
  deriving DecidableEq, Repr

/-- The butterflies of block `j` at distance `d`, in the order of `k` (R170, R171). -/
def blockPairs (d : Nat) (sub : List Word) (j : Nat) : List Pair :=
  (List.range d).map fun t => ⟨j * (2 * d) + t, j * (2 * d) + t + d, sub.getD j 0#64⟩

/-- What one worker does at a level: the blocks from `j0` on, `n` of them (R183). -/
def workerPairs (d : Nat) (sub : List Word) (j0 n : Nat) : List Pair :=
  (List.range' j0 n).flatMap (blockPairs d sub)

/-- One step of a worker on the shared buffer: `(p[k], p[k2]) = f(p[k], p[k2], g)` (R171, R180). -/
def applyPair (f : Word → Word → Word → Word × Word) (p : List Word) (x : Pair) : List Word :=
  (p.set x.k (f (p.getD x.k 0#64) (p.getD x.k2 0#64) x.g).1).set x.k2
    (f (p.getD x.k 0#64) (p.getD x.k2 0#64) x.g).2

/-- The two workers' steps in the order `turns` gives, and what is left of `turns` when both have finished; where `turns`
runs out, WORKER0 moves first (R183: "may interleave in any order"; log entry 5). -/
def interleave : List Worker → List Pair → List Pair → List Pair × List Worker
  | [], xs, ys => (xs ++ ys, [])
  | t :: ts, [], ys => (ys, t :: ts)
  | t :: ts, xs, [] => (xs, t :: ts)
  | .worker0 :: ts, x :: xs, y :: ys =>
    let r := interleave ts xs (y :: ys)
    (x :: r.1, r.2)
  | .worker1 :: ts, x :: xs, y :: ys =>
    let r := interleave ts (x :: xs) ys
    (y :: r.1, r.2)

/-- A merge level with two workers: WORKER0 has blocks `[0, 2^(i-1))`, WORKER1 the rest; the level ends when both have
finished, which is the barrier (R183, D26). -/
def workerLevel (f : Word → Word → Word → Word × Word) (m : Nat) (sub : List Word) (pt : List Word × List Worker) (i : Nat) :
    List Word × List Worker :=
  let d := 2 ^ (m - 1 - i)
  let r := interleave pt.2 (workerPairs d sub 0 (2 ^ (i - 1))) (workerPairs d sub (2 ^ (i - 1)) (2 ^ (i - 1)))
  (r.1.foldl (applyPair f) pt.1, r.2)

/-- `FFTP`'s execution: the engine runs `radix` and the leaf pass, the workers the levels `1 .. m-1` (R183). -/
def fftp (F : GF) (m : Nat) (sub p : List Word) (ts : List Worker) : List Word × List Worker :=
  (List.range' 1 (m - 1)).foldl (workerLevel F.bfly m sub) (leafPass m (radix m p), ts)

/-- `IFFTP`'s execution: the workers run the levels `m-1 .. 1`, the engine the leaf pass and `iradix` (R183). -/
def ifftp (F : GF) (m : Nat) (sub p : List Word) (ts : List Worker) : List Word × List Worker :=
  let r := (List.range' 1 (m - 1)).reverse.foldl (workerLevel F.ibfly m sub) (p, ts)
  (iradix m (leafPass m r.1), r.2)

/-- The checks all six transforms share: a basis, and a buffer of exactly `2^m` elements (R172, R174). -/
def domainCheck (w : Word) (d : PReg) (s : State) (k : Result) : Result :=
  if s.basisM = 0 then raise w .noBasis 0#8 0 s
  else if s.len d ≠ s.domain then raise w .length 2#8 (s.len d) s
  else k

/-- `FFT Pd` (R174). -/
def execFft (d : PReg) (s : State) : Result :=
  domainCheck (encode (.fft d)) d s (finish (s.setBuf d (fft s.field s.basisM s.sub (s.buf d))))

/-- `IFFT Pd` (R175). -/
def execIfft (d : PReg) (s : State) : Result :=
  domainCheck (encode (.ifft d)) d s (finish (s.setBuf d (ifft s.field s.basisM s.sub (s.buf d))))

/-- `FFTL Pd` (R177). -/
def execFftl (d : PReg) (s : State) : Result :=
  domainCheck (encode (.fftl d)) d s (finish (s.setBuf d (fftl s.field s.basisM s.sub (s.buf d))))

/-- `IFFTL Pd` (R178). -/
def execIfftl (d : PReg) (s : State) : Result :=
  domainCheck (encode (.ifftl d)) d s (finish (s.setBuf d (ifftl s.field s.basisM s.sub (s.buf d))))

/-- `FFTP Pd` (R181, R183). -/
def execFftp (d : PReg) (s : State) : Result :=
  domainCheck (encode (.fftp d)) d s
    (let r := fftp s.field s.basisM s.sub (s.buf d) s.turns
     finish ((s.setBuf d r.1).setTurns r.2))

/-- `IFFTP Pd` (R182, R183). -/
def execIfftp (d : PReg) (s : State) : Result :=
  domainCheck (encode (.ifftp d)) d s
    (let r := ifftp s.field s.basisM s.sub (s.buf d) s.turns
     finish ((s.setBuf d r.1).setTurns r.2))

end Sys2Proof.Machine
end

