-- ==== Sys2Proof/Machine/Poly.lean ====
section
/-!
DEFINITION. The Polynomial Engine (44_poly.md): EVAL PMULN PMUL MULS SUBST INVS PDIV ZPOLY. Every source is read as a value
before the destination is written, so any operand may name the same buffer as any other (R192).
-/

namespace Sys2Proof.Machine

/-- `eval(p, x)`, Horner from the highest coefficient down; 0 for the empty list (R193). -/
def evalPoly (F : GF) (p : List Word) (x : Word) : Word := p.foldr (fun c acc => F.mul acc x ^^^ c) 0#64

/-- `EVAL Ed, Pa, Eb`: `E[d] <- eval(P[a], E[b])` (R194). -/
def execEval (d : EReg) (a : PReg) (b : EReg) (s : State) : Result :=
  finish (s.writeE d (evalPoly s.field (s.buf a) (s.readE b)))

/-- `r[j] += row[j]` for every `j` the row has, the other words of `r` kept. -/
def addRow : List Word → List Word → List Word
  | [], r => r
  | _ :: _, [] => []
  | v :: vs, c :: cs => (c ^^^ v) :: addRow vs cs

/-- The inner loop of R195 at one `i`: `r[i+j] += mul(p[i], q[j])` for every `j`. -/
def convRow (F : GF) (q : List Word) (r : List Word) (ai : Word × Nat) : List Word :=
  r.take ai.2 ++ addRow (q.map (F.mul ai.1)) (r.drop ai.2)

/-- `mul_naive_poly(p, q)`, the schoolbook product; the empty list if an operand is empty (R195). -/
def mulNaivePoly (F : GF) (p q : List Word) : List Word :=
  if p = [] ∨ q = [] then [] else p.zipIdx.foldl (convRow F q) (zeros (p.length + q.length - 1))

/-- The length of a schoolbook product: 0 for an empty operand (R196). -/
def naiveLength (la lb : Nat) : Nat := if la = 0 ∨ lb = 0 then 0 else la + lb - 1

/-- `PMULN Pd, Pa, Pb` (R196). -/
def execPmuln (d a b : PReg) (s : State) : Result :=
  if Config.cap < naiveLength (s.len a) (s.len b) then
    raise (encode (.pmuln d a b)) .capacity 0#8 (naiveLength (s.len a) (s.len b)) s
  else finish (s.setBuf d (mulNaivePoly s.field (s.buf a) (s.buf b)))

/-- `mul_sample(a, b)`, the elementwise product of two lists of one length (R197). -/
def mulSample (F : GF) (a b : List Word) : List Word := List.zipWith F.mul a b

/-- `MULS Pd, Pa, Pb` (R198). -/
def execMuls (d a b : PReg) (s : State) : Result :=
  if s.len a ≠ s.len b then raise (encode (.muls d a b)) .sample 0#8 (s.len b) s
  else finish (s.setBuf d (mulSample s.field (s.buf a) (s.buf b)))

/-- `pmul(p, q)`: expand both to `N = 2^m`, transform, multiply, transform back (R199). -/
def pmul (F : GF) (m : Nat) (sub p q : List Word) : List Word :=
  ifft F m sub (mulSample F (fft F m sub (expand p (2 ^ m))) (fft F m sub (expand q (2 ^ m))))

/-- `PMUL Pd, Pa, Pb`, with the four checks of R201 in order. -/
def execPmul (d a b : PReg) (s : State) : Result :=
  let w := encode (.pmul d a b)
  let need : Int := deg (s.buf a) + deg (s.buf b) + 1
  if s.basisM = 0 then raise w .noBasis 0#8 0 s
  else if s.domain < s.len a then raise w .length 3#8 (s.len a) s
  else if s.domain < s.len b then raise w .length 3#8 (s.len b) s
  else if (s.domain : Int) < need then raise w .length 4#8 need.toNat s
  else finish (s.setBuf d (pmul s.field s.basisM s.sub (s.buf a) (s.buf b)))

/-- `substitute(p, k)` with the running power `acc`: coefficient `i` times `acc * k^i` (R204). -/
def substFrom (F : GF) (k : Word) : Word → List Word → List Word
  | _, [] => []
  | acc, c :: cs => F.mul c acc :: substFrom F k (F.mul acc k) cs

/-- `substitute(p, k)` (R204). -/
def substitute (F : GF) (p : List Word) (k : Word) : List Word := substFrom F k 1#64 p

/-- `SUBST Pd, Ea` (R206). -/
def execSubst (d : PReg) (a : EReg) (s : State) : Result :=
  finish (s.setBuf d (substitute s.field (s.buf d) (s.readE a)))

/-- The two passes of R207 on the entries from one index on: `acc` is the product of the nonzero entries before it. The
answer is the inverted entries and the `t` that the backward pass carries to the index before. The one field inversion
stands at the end of the list. -/
def invPasses (F : GF) : Word → List Word → List Word × Word
  | acc, [] => ([], F.inv acc)
  | acc, v :: vs =>
    if v = 0#64 then
      let r := invPasses F acc vs
      (v :: r.1, r.2)
    else
      let r := invPasses F (F.mul acc v) vs
      (F.mul r.2 acc :: r.1, F.mul r.2 v)

/-- `inv_sample(p)` (R207). -/
def invSample (F : GF) (p : List Word) : List Word := (invPasses F 1#64 p).1

/-- `INVS Pd` (R208). -/
def execInvs (d : PReg) (s : State) : Result := finish (s.setBuf d (invSample s.field (s.buf d)))

/-- `pdiv(p, q)`: transform both, invert the divisor's samples, multiply, transform back (R210). -/
def pdiv (F : GF) (m : Nat) (sub p q : List Word) : List Word :=
  ifft F m sub
    (mulSample F (fft F m sub (expand p (2 ^ m))) (invSample F (fft F m sub (expand q (2 ^ m)))))

/-- `PDIV Pd, Pa, Pb`, with the checks of R211 in order. -/
def execPdiv (d a b : PReg) (s : State) : Result :=
  let w := encode (.pdiv d a b)
  if s.basisM = 0 then raise w .noBasis 0#8 0 s
  else if s.domain < s.len a then raise w .length 3#8 (s.len a) s
  else if s.domain < s.len b then raise w .length 3#8 (s.len b) s
  else finish (s.setBuf d (pdiv s.field s.basisM s.sub (s.buf a) (s.buf b)))

/-- `zpoly(roots)`: from `[1]`, times `(x + root)` for each root in turn (R212; the tree shape cannot be observed, R214). -/
def zpoly (F : GF) (roots : List Word) : List Word :=
  roots.foldl (fun z x => mulNaivePoly F z [x, 1#64]) [1#64]

/-- `ZPOLY Pd, Pa`, with the checks of R213 in order. -/
def execZpoly (d a : PReg) (s : State) : Result :=
  let w := encode (.zpoly d a)
  let r := s.len a
  if s.basisM = 0 then raise w .noBasis 0#8 0 s
  else if r = 0 ∨ r % 2 = 1 then raise w .roots 0#8 r s
  else if s.domain < r + 1 then raise w .length 4#8 (r + 1) s
  else finish (s.setBuf d (zpoly s.field (s.buf a)))

end Sys2Proof.Machine
end

