-- ==== Sys2Proof/Machine/Erasure.lean ====
section
/-!
DEFINITION. The Erasure Coder (45_erasure.md): ENCODE and RECOVER.
-/

namespace Sys2Proof.Machine

/-- `encode(data, factor)`: pad to `len(data) * factor` and transform (R222). -/
def encodeData (F : GF) (m : Nat) (sub data : List Word) (factor : Nat) : List Word :=
  fft F m sub (expand data (data.length * factor))

/-- `ENCODE Pd, Pa, #factor` (R221). -/
def execEncode (d a : PReg) (factor : BitVec 32) (s : State) : Result :=
  let w := encode (.encode d a factor)
  let T := s.len a * factor.toNat
  if s.basisM = 0 then raise w .noBasis 0#8 0 s
  else if T ≠ s.domain then raise w .length 5#8 T s
  else finish (s.setBuf d (encodeData s.field s.basisM s.sub (s.buf a) factor.toNat))

/-- Steps 1 to 7 of R224 and the trim of step 8: the trimmed quotient `D(kx)`. -/
def recoverQuotient (F : GF) (m : Nat) (comb sub cw idx : List Word) (k : Word) : List Word :=
  let pts := idx.map fun i => comb.getD i.toNat 0#64
  let Z := zpoly F pts
  let Zs := fft F m sub (expand Z (2 ^ m))
  let DZ := ifft F m sub (mulSample F Zs cw)
  trim (pdiv F m sub (substitute F DZ k) (substitute F Z k))

/-- The checks on the index list, in list order: the first position whose index is out of range (sub-cause 1) or whose slot
is not zero (sub-cause 2), with the position (R225, R226). -/
def badSlot (N : Nat) (cw : List Word) : Nat → List Word → Option (BitVec 8 × Nat)
  | _, [] => none
  | t, i :: rest =>
    if N ≤ i.toNat then some (1#8, t)
    else if cw.getD i.toNat 0#64 ≠ 0#64 then some (2#8, t)
    else badSlot N cw (t + 1) rest

/-- The part of RECOVER after the checks on lengths and on the index list: `k = 0`, the nine steps, the degree check, the
write of `dlen` coefficients (R224, R226). -/
def recoverSteps (w : Word) (d a b : PReg) (k : Word) (dlen : Nat) (s : State) : Result :=
  let F := s.field
  if k = 0#64 then raise w .recon 4#8 0 s
  else
    let Dk := recoverQuotient F s.basisM s.comb s.sub (s.buf a) (s.buf b) k
    if dlen < Dk.length then raise w .recon 3#8 Dk.length s
    else finish (s.setBuf d (expand (substitute F Dk (F.inv k)) dlen))

/-- `RECOVER Pd, Pa, Pb, Ec, #dlen`, with the checks of R226 in order. -/
def execRecover (d a b : PReg) (c : EReg) (dlen : BitVec 32) (s : State) : Result :=
  let w := encode (.recover d a b c dlen)
  let r := s.len b
  if s.basisM = 0 then raise w .noBasis 0#8 0 s
  else if s.len a ≠ s.domain then raise w .length 2#8 (s.len a) s
  else if r = 0 ∨ r % 2 = 1 then raise w .roots 0#8 r s
  else if s.domain < r + 1 then raise w .length 4#8 (r + 1) s
  else if s.domain < r + dlen.toNat then raise w .recon 5#8 r s
  else
    match badSlot s.domain (s.buf a) 0 (s.buf b) with
    | some (sub, t) => raise w .recon sub t s
    | none => recoverSteps w d a b (s.readE c) dlen.toNat s

end Sys2Proof.Machine
end

