-- ==== Sys2Proof/Machine/Kernel.lean ====
section
/-!
DEFINITION. The commands of the Field Kernel (40_field_kernel.md R129 to R140): FADD FSUB FNEG FMUL FMULN FSQR FINV FBFLY
FIBFLY FRAND. Sources are read before the destination is written; none of them raises an error once decoded (R129).
-/

namespace Sys2Proof.Machine

/-- `FADD`: `E[d] <- E[a] + E[b]` (R130). -/
def execFadd (d a b : EReg) (s : State) : Result := finish (s.writeE d (s.readE a ^^^ s.readE b))

/-- `FSUB`: the same function as `FADD` (R131). -/
def execFsub (d a b : EReg) (s : State) : Result := finish (s.writeE d (s.readE a ^^^ s.readE b))

/-- `FNEG`: `E[d] <- E[a]`, the register move (R132). -/
def execFneg (d a : EReg) (s : State) : Result := finish (s.writeE d (s.readE a))

/-- `FMUL`: `E[d] <- mul(E[a], E[b])` (R133). -/
def execFmul (d a b : EReg) (s : State) : Result := finish (s.writeE d (s.field.mul (s.readE a) (s.readE b)))

/-- `FMULN`: `E[d] <- mul_naive(E[a], E[b])`, by the reference multiplier (R134). -/
def execFmuln (d a b : EReg) (s : State) : Result := finish (s.writeE d (s.field.mulNaive (s.readE a) (s.readE b)))

/-- `FSQR`: `E[d] <- sqr(E[a])` (R135). -/
def execFsqr (d a : EReg) (s : State) : Result := finish (s.writeE d (s.field.sqr (s.readE a)))

/-- `FINV`: `E[d] <- inv(E[a])`; `inv(0) = 0` and no error (R136). -/
def execFinv (d a : EReg) (s : State) : Result := finish (s.writeE d (s.field.inv (s.readE a)))

/-- The two writes of a butterfly: `E[d] <- k'`, `E[a] <- k2'` (R137). -/
def State.writePair (s : State) (d a : EReg) (r : Word × Word) : State := (s.writeE d r.1).writeE a r.2

/-- `FBFLY`: `(E[d], E[a]) <- bfly(E[d], E[a], E[b])` (R137). With `d = a` the word is illegal and is never decoded to this
command (R101); the command then raises `E_ILLEGAL`, as that word does (R96). -/
def execFbfly (d a b : EReg) (s : State) : Result :=
  if d = a then raise (encode (.fbfly d a b)) .illegal 0#8 0 s
  else finish (s.writePair d a (s.field.bfly (s.readE d) (s.readE a) (s.readE b)))

/-- `FIBFLY`: `(E[d], E[a]) <- ibfly(E[d], E[a], E[b])` (R138); `d = a` as for `FBFLY` (R101). -/
def execFibfly (d a b : EReg) (s : State) : Result :=
  if d = a then raise (encode (.fibfly d a b)) .illegal 0#8 0 s
  else finish (s.writePair d a (s.field.ibfly (s.readE d) (s.readE a) (s.readE b)))

/-- Takes words from the port until one is nonzero in its low `n` bits: that element, and the words after it (R140). -/
def takeNonzero (mask : Word) : List Word → Option (Word × List Word)
  | [] => none
  | w :: ws => if w &&& mask = 0#64 then takeNonzero mask ws else some (w &&& mask, ws)

/-- The free value of draw `k`: any nonzero element of the field (R139, U7; log entry 2). -/
def freeDraw : Width → Nat → Word
  | .gf16, k => BitVec.ofNat 64 ((Config.draw16 k).val + 1)
  | .gf64, k => BitVec.ofNat 64 ((Config.draw64 k).val + 1)

/-- `FRAND`: `E[d] <- draw(nonzero elements)` (R139, R140). The pending words of the port answer first; where they hold no
nonzero one, the port delivers a free nonzero value, or, if it delivers zero for ever, the command does not complete and
`BUSY` stays 1 (U7). -/
def execFrand (d : EReg) (s : State) : Result :=
  match takeNonzero s.field.mask s.entropy with
  | some (v, rest) => finish ((s.setEntropy rest).writeE d v)
  | none =>
    if s.entropyDead then .next (s.setEntropy [])
    else finish (((s.setEntropy []).nextDraw).writeE d (freeDraw s.width s.draws))

end Sys2Proof.Machine
end

