-- ==== Sys2Proof/Machine/Dispatch.lean ====
section
/-!
DEFINITION. One arm per command: which meaning it has (30_encoding.md R95).
-/

namespace Sys2Proof.Machine

def exec (i : Instr) (s : State) : Host.Outcome State Fault Refusal :=
  match i with
  | .nop => Sys2Proof.Machine.execNop s
  | .fadd d a b => Sys2Proof.Machine.execFadd d a b s
  | .fsub d a b => Sys2Proof.Machine.execFsub d a b s
  | .fneg d a => Sys2Proof.Machine.execFneg d a s
  | .fmul d a b => Sys2Proof.Machine.execFmul d a b s
  | .fmuln d a b => Sys2Proof.Machine.execFmuln d a b s
  | .fsqr d a => Sys2Proof.Machine.execFsqr d a s
  | .finv d a => Sys2Proof.Machine.execFinv d a s
  | .fbfly d a b => Sys2Proof.Machine.execFbfly d a b s
  | .fibfly d a b => Sys2Proof.Machine.execFibfly d a b s
  | .frand d => Sys2Proof.Machine.execFrand d s
  | .basis a m => Sys2Proof.Machine.execBasis a m s
  | .radix d => Sys2Proof.Machine.execRadix d s
  | .iradix d => Sys2Proof.Machine.execIradix d s
  | .fft d => Sys2Proof.Machine.execFft d s
  | .ifft d => Sys2Proof.Machine.execIfft d s
  | .fftl d => Sys2Proof.Machine.execFftl d s
  | .ifftl d => Sys2Proof.Machine.execIfftl d s
  | .fftp d => Sys2Proof.Machine.execFftp d s
  | .ifftp d => Sys2Proof.Machine.execIfftp d s
  | .eval d a b => Sys2Proof.Machine.execEval d a b s
  | .pmuln d a b => Sys2Proof.Machine.execPmuln d a b s
  | .pmul d a b => Sys2Proof.Machine.execPmul d a b s
  | .muls d a b => Sys2Proof.Machine.execMuls d a b s
  | .subst d a => Sys2Proof.Machine.execSubst d a s
  | .invs d => Sys2Proof.Machine.execInvs d s
  | .pdiv d a b => Sys2Proof.Machine.execPdiv d a b s
  | .zpoly d a => Sys2Proof.Machine.execZpoly d a s
  | .encode d a factor => Sys2Proof.Machine.execEncode d a factor s
  | .recover d a b c dlen => Sys2Proof.Machine.execRecover d a b c dlen s
  | .resize d len => Sys2Proof.Machine.execResize d len s
  | .trim d => Sys2Proof.Machine.execTrim d s
  | .copy d a => Sys2Proof.Machine.execCopy d a s

end Sys2Proof.Machine
end

