-- ==== Sys2Proof/Machine/Window.lean ====
section
/-!
DEFINITION. The host window (20_memory.md): the address map of R63, what each access does (R64 to R70, and 10_state.md R25 to
R27, R32 to R34, R39), which accesses are held while a command runs (R69), and the platform bridge (R71, R72).
-/

namespace Sys2Proof.Machine

/-- A mapped word of the window (R63). -/
inductive Loc where
  | id
  | ctrl
  | status
  | cmd
  | errinfo
  | errcmd
  | param
  | e (i : EReg)
  | len (b : PReg)
  | basis (i : Nat)
  | comb (i : Nat)
  | sub (k : Nat)
  | elem (b : PReg) (i : Nat)
  deriving DecidableEq, Repr

/-- The address map: the word at an offset, `none` where the offset is unmapped (R63). -/
def locate (off : Nat) : Option Loc :=
  if off = 0x000 then some .id
  else if off = 0x001 then some .ctrl
  else if off = 0x002 then some .status
  else if off = 0x003 then some .cmd
  else if off = 0x004 then some .errinfo
  else if off = 0x005 then some .errcmd
  else if off = 0x006 then some .param
  else if 0x010 ≤ off ∧ off < 0x020 then some (.e (Fin.ofNat 16 (off - 0x010)))
  else if 0x020 ≤ off ∧ off < 0x028 then some (.len (Fin.ofNat 8 (off - 0x020)))
  else if 0x040 ≤ off ∧ off < 0x050 then some (.basis (off - 0x040))
  else if 0x10000 ≤ off ∧ off < 0x20000 then some (.comb (off - 0x10000))
  else if 0x20000 ≤ off ∧ off < 0x28000 then some (.sub (off - 0x20000))
  else if 0x100000 ≤ off ∧ off < 0x180000 then
    some (.elem (Fin.ofNat 8 ((off - 0x100000) / 0x10000)) ((off - 0x100000) % 0x10000))
  else none

/-- An entry of a table with `count` valid entries, `none` beyond them (R68). -/
def tableEntry (table : List Word) (count i : Nat) : Option Word :=
  if i < count then some (table.getD i 0#64) else none

/-- The number of valid entries of `COMB`: `2^BASIS_M`, none without a basis (R68). -/
def State.combCount (s : State) : Nat := if s.basisM = 0 then 0 else 2 ^ s.basisM

/-- The number of valid entries of `SUB`: `2^(BASIS_M - 1)`, none without a basis (R68). -/
def State.subCount (s : State) : Nat := if s.basisM = 0 then 0 else 2 ^ (s.basisM - 1)

/-- What a read of a mapped word returns, `none` where the read is refused (R64, R65, R67, R68, R70). A read of an element
has bits 63:n zero (R66), and a read of `CMD` returns 0 (R32). -/
def State.readLoc (s : State) : Loc → Option Word
  | .id => some idWord
  | .ctrl => some s.ctrlWord
  | .status => some s.statusWord
  | .cmd => some 0#64
  | .errinfo => some s.errinfo
  | .errcmd => some s.errcmd
  | .param => some paramWord
  | .e i => some (s.readE i)
  | .len b => some (BitVec.ofNat 64 (s.len b))
  | .basis i => tableEntry s.basis s.basisM i
  | .comb i => tableEntry s.comb s.combCount i
  | .sub k => tableEntry s.sub s.subCount k
  | .elem b i => if i < s.len b then some ((s.buf b).getD i 0#64 &&& s.field.mask) else none

/-- What a read at an offset returns, `none` where it is refused (R63, R70). -/
def State.window (s : State) (off : Nat) : Option Word := (locate off).bind s.readLoc

/-- A write of `CTRL` (R25): with bit 63 a soft reset (R292); else the two enables and the width take the written bits, and
a changed width clears every element, length and the basis (R39). -/
def State.writeCtrl (s : State) (v : Word) : State :=
  if v.getLsbD 63 then s.toReset
  else
    let t := if Width.ofBool (v.getLsbD 0) = s.width then s else s.clearElements
    { t with width := Width.ofBool (v.getLsbD 0), ieDone := v.getLsbD 1, ieErr := v.getLsbD 2 }

/-- A write of `STATUS` (R26): each of `DONE`, `ERRF`, `BUSERR`, `CMDDROP` is cleared where the written bit is 1; clearing
`ERRF` leaves the error state (R271); every other bit is ignored. -/
def State.writeStatus (s : State) (v : Word) : State :=
  let t := if v.getLsbD 2 then s.clearError else s
  { t with
    done := s.done && !v.getLsbD 1
    buserr := s.buserr && !v.getLsbD 3
    cmddrop := s.cmddrop && !v.getLsbD 4 }

/-- A write of `CMD` while no command runs (R245): dropped in the error state, else accepted. -/
def State.issue (s : State) (w : Word) : State :=
  if s.errf then { s with cmddrop := true } else { s with inflight := some w }

/-- What a write of a mapped word does, `none` where the write is refused (R64, R66, R67, R70). -/
def State.writeLoc (s : State) (l : Loc) (v : Word) : Option State :=
  match l with
  | .ctrl => some (s.writeCtrl v)
  | .status => some (s.writeStatus v)
  | .cmd => some (s.issue v)
  | .e i => some (s.writeE i (v &&& s.field.mask))
  | .elem b i => if i < s.len b then some (s.setBuf b ((s.buf b).set i (v &&& s.field.mask))) else none
  | .id | .errinfo | .errcmd | .param | .len _ | .basis _ | .comb _ | .sub _ => none

/-- A refused access sets `STATUS.BUSERR` (R70). -/
def State.refuse (s : State) : State := { s with buserr := true }

/-- `MemRead(off, 1)` (R62): the host gets the word; a refused read returns 0 and sets `BUSERR` (R70). -/
def State.hostRead (s : State) (off : Nat) : State :=
  match s.window off with
  | some v => { s with rdata := v }
  | none => { s.refuse with rdata := 0#64 }

/-- `MemWrite(off, 1, v)` (R62): a refused write changes nothing but `BUSERR` (R70). -/
def State.hostWrite (s : State) (off : Nat) (v : Word) : State :=
  match (locate off).bind fun l => s.writeLoc l v with
  | some t => t
  | none => s.refuse

/-- A host access that is not held takes effect (R62). -/
def State.hostAccess (s : State) : Access → State
  | .read off => s.hostRead off
  | .write off v => s.hostWrite off v

/-- Whether an access is held while a command runs: all are, but for a read of `ID`, `CTRL`, `STATUS`, `ERRINFO`, `ERRCMD`,
`PARAM` and a write of `STATUS` (R69). -/
def heldWhileBusy : Access → Bool
  | .read off => off ∉ [0x000, 0x001, 0x002, 0x004, 0x005, 0x006]
  | .write off _ => off ≠ 0x002

/-- The eight bytes of a word on a byte-addressed bus: little-endian, bits 7:0 at the lowest address (R71). -/
def wordBytes (w : Word) : List (BitVec 8) := (List.range 8).map fun i => w.extractLsb' (8 * i) 8

/-- The word that eight bytes from the lowest address up make (R71). -/
def bytesWord (bs : List (BitVec 8)) : Word :=
  bs.foldr (fun x acc => (acc <<< 8) ||| x.setWidth 64) 0#64

/-- Whether a bridge with its window at `base` forwards an access of `size` bytes at `addr`: exactly one word at a byte
address `base + 8 * off` that is a multiple of 8 (R71, R72). -/
def bridgeForwards (base addr size : Nat) : Bool :=
  decide (size = 8 ∧ base ≤ addr ∧ addr % 8 = 0 ∧ (addr - base) % 8 = 0)

/-- The host access a bus access becomes, `none` where the bridge must not forward it (R71, R72). -/
def bridge (base : Nat) : BusAccess → Option Access
  | .read addr size => if bridgeForwards base addr size then some (.read ((addr - base) / 8)) else none
  | .write addr bytes =>
    if bridgeForwards base addr bytes.length then some (.write ((addr - base) / 8) (bytesWord bytes)) else none

end Sys2Proof.Machine
end

