-- ==== Sys2Proof/Machine/Engine.lean ====
section
/-!
DEFINITION. Who moves next, and what each agent's step does (00_scope.md R12): the HOST's accesses, the ENGINE's run of the
command in flight (46_buffer_system.md R245, R246), the reset input (70_reset_and_hazards.md R290).

The block has no program counter and fetches nothing (10_state.md R24): the program is the host's list of accesses to come.
-/

namespace Sys2Proof.Machine

/-- The ENGINE executes the accepted word to its end (R246): it decodes the word and runs the command's rule, or raises
`E_ILLEGAL` for a word that is no command (R96). Without a word in flight it is idle. -/
def engineStep (s : State) : Result :=
  match s.inflight with
  | none => .next s
  | some w =>
    match decode w with
    | .ok i => exec i s
    | .error _ => raise w .illegal 0#8 0 s

/-- The rest of the outside world's actions. -/
def State.setInputs (s : State) (is : List Input) : State := { s with inputs := is }

/-- The HOST's next access `a`, with `rest` to come: while a command runs a held access waits and the ENGINE moves (R69);
else the access takes effect. -/
def accessStep (a : Access) (rest : List Input) (s : State) : Result :=
  if s.busy && heldWhileBusy a then engineStep s else .next ((s.setInputs rest).hostAccess a)

/-- One step of the block in its environment. Where a command runs and the outside world does nothing, the ENGINE completes
it; where nothing is to do, the block stays idle (R275, R290). -/
def nextStep (s : State) : Result :=
  match s.inputs with
  | [] => engineStep s
  | .idle :: rest => engineStep (s.setInputs rest)
  | .rst :: rest => .next (s.setInputs rest).toReset
  | .access a :: rest => accessStep a rest s
  | .bus b :: rest =>
    match bridge Config.windowBase b with
    | some a => accessStep a rest s
    | none => .refused .busAccessNotForwarded

/-- The inputs with the outside world doing nothing in the next step: an idle input before those that wait. -/
def idleFirst : List Input → List Input
  | [] => []
  | i :: rest => .idle :: i :: rest

/-- `s` with the word `w` accepted as the command in flight, and the outside world doing nothing in the next step, so that
the next step is the ENGINE's run of `w` (R245, R246; log entry 4). -/
def State.accept (s : State) (w : Word) : State :=
  { s with inflight := some w, inputs := idleFirst s.inputs }

end Sys2Proof.Machine
end

