-- ==== Sys2Proof/Machine/Step.lean ====
section
/-!
DEFINITION. The step of the machine, and how the host's questions place one command (log entry 4).
-/

namespace Sys2Proof.Machine

/-- One step. -/
def step (s : State) : Host.Outcome State Fault Refusal := nextStep s

/-- `s` with the command word given as the opcode table numbers its bits accepted for execution: the next step runs it. -/
def State.withFetchWord (s : State) (nbits w : Nat) : State := s.accept (tableWord nbits w)

end Sys2Proof.Machine
end

