-- ==== Sys2Proof/Safety.lean ====
section
/-!
DEFINITION. What claims about GFCORE are stated in: the invariant of 10_state.md R40, what a command that completes leaves
unchanged, the state an error leaves, and when a run is safe.
-/

namespace Sys2Proof.Machine

/-- `w` is an element of a field of width `n` (R9, R22). -/
def IsElem (n : Nat) (w : Word) : Prop := w.toNat < 2 ^ n

/-- The polynomial of the field is irreducible of degree `n` (R6, R9): it is not the product of two polynomials of degrees
between 1 and `n - 1`, which are the words from 2 up to `2^n - 1`. -/
def GF.Irreducible (F : GF) : Prop :=
  ∀ a b : Word, IsElem F.n a → IsElem F.n b → 1 < a.toNat → 1 < b.toNat → F.clmul a b ≠ F.poly

/-- What R6 asks of the parameters: polynomials of degree 16 and 64, both irreducible. -/
structure Params.Valid (P : Params) : Prop where
  degree16 : P.poly16.msb = true
  degree64 : P.poly64.msb = true
  irreducible16 : (P.field .gf16).Irreducible
  irreducible64 : (P.field .gf64).Irreducible

/-- The tables are those of some generator of the active field and span `m` (R40 (d), R151 to R154). -/
def TablesOf (F : GF) (m : Nat) (basis comb sub : List Word) : Prop :=
  ∃ g0 : Word, IsElem F.n g0 ∧ (tower F g0).getLast? = some 1#64 ∧ basis = retained F g0 m ∧
    comb = combinations basis m ∧ sub = evens comb

/-- The invariant of R40, (a) to (f). -/
structure State.Inv (s : State) : Prop where
  /-- (a), (b): every buffer is at most `CAP` long and holds elements of the active field. -/
  buffers : Memory.wf s.field.n s.mem = true
  /-- (b): every scalar register holds an element of the active field. -/
  registers : ∀ i : EReg, IsElem s.field.n s.e[i]
  /-- (b): every table entry is an element of the active field. -/
  entries : ∀ w ∈ s.basis ++ s.comb ++ s.sub, IsElem s.field.n w
  /-- (c): the span is at most `min(n, 16)`. -/
  span : s.basisM ≤ min s.field.n Config.mMax
  /-- (d): with a basis, the tables are those of some generator. -/
  tables : s.basisM ≠ 0 → TablesOf s.field s.basisM s.basis s.comb s.sub
  /-- Without a basis no table entry exists (R28, U3). -/
  noTables : s.basisM = 0 → s.basis = [] ∧ s.comb = [] ∧ s.sub = []
  /-- (e): without an error nothing is recorded. -/
  noError : s.errf = false → s.err = 0#8 ∧ s.errinfo = 0#64 ∧ s.errcmd = 0#64
  /-- (f): no command runs in the error state. -/
  busyNoError : s.busy = true → s.errf = false

/-- A run is safe as long as no command has ended with an error (R37). -/
def State.Safe (s : State) : Prop := s.errf = false

/-- The active basis is one that `BASIS` builds: the tables and the span are as R40 (c), (d) say. -/
def State.HasBasis (s : State) : Prop :=
  s.basisM ≠ 0 ∧ s.basisM ≤ min s.field.n Config.mMax ∧ TablesOf s.field s.basisM s.basis s.comb s.sub

/-- Every element of buffer `b` is an element of the active field (R22). -/
def State.BufElems (s : State) (b : PReg) : Prop := ∀ w ∈ s.buf b, IsElem s.field.n w

/-- The offsets of the host window that hold buffer `b` or its length (R63). -/
def bufferOffset (b : PReg) (off : Nat) : Prop :=
  off = 0x020 + b.val ∨ (0x100000 + b.val * 0x10000 ≤ off ∧ off < 0x100000 + (b.val + 1) * 0x10000)

/-- The offsets of the host window that hold the basis tables (R63). -/
def tableOffset (off : Nat) : Prop :=
  (0x040 ≤ off ∧ off < 0x050) ∨ (0x10000 ≤ off ∧ off < 0x28000)

/-- What a command that completes without an error and writes only the registers `regs`, the buffers `bufs` and, if `tables`
says so, the basis leaves: everything else is unchanged, `DONE` is set and `BUSY` is clear (R246), and every word of the
host window outside what it writes and `STATUS` reads as before (R63). -/
structure Completes (regs : List EReg) (bufs : List PReg) (tables : Bool) (s t : State) : Prop where
  doneSet : t.done = true
  idle : t.busy = false
  otherRegs : ∀ j : EReg, j ∉ regs → t.e[j] = s.e[j]
  otherBufs : ∀ b : PReg, b ∉ bufs → t.buf b = s.buf b
  sameTables : tables = false → t.basisM = s.basisM ∧ t.basis = s.basis ∧ t.comb = s.comb ∧ t.sub = s.sub
  control : t.width = s.width ∧ t.ieDone = s.ieDone ∧ t.ieErr = s.ieErr
  errorRegs : t.errf = s.errf ∧ t.err = s.err ∧ t.errinfo = s.errinfo ∧ t.errcmd = s.errcmd
  accessFlags : t.buserr = s.buserr ∧ t.cmddrop = s.cmddrop
  outside : t.inputs = s.inputs ∧ t.entropyDead = s.entropyDead ∧ t.rdata = s.rdata
  parameters : t.params = s.params
  windowElsewhere : ∀ off : Nat, off ≠ 0x002 → (∀ j ∈ regs, off ≠ 0x010 + j.val) → (∀ b ∈ bufs, ¬ bufferOffset b off) →
    (tables = true → ¬ tableOffset off) → t.window off = s.window off

/-- The block's own state, all of R20, is the same in both: the environment fields (log entries 2, 4, 5, 6) and the
parameters, which are not state (R6, R291; log entry 1), may differ. -/
structure SameBlock (s t : State) : Prop where
  registers : t.e = s.e
  buffers : t.mem = s.mem
  span : t.basisM = s.basisM
  tables : t.basis = s.basis ∧ t.comb = s.comb ∧ t.sub = s.sub
  control : t.width = s.width ∧ t.ieDone = s.ieDone ∧ t.ieErr = s.ieErr
  command : t.inflight = s.inflight
  flags : t.done = s.done ∧ t.errf = s.errf ∧ t.buserr = s.buserr ∧ t.cmddrop = s.cmddrop
  errorRegs : t.err = s.err ∧ t.errinfo = s.errinfo ∧ t.errcmd = s.errcmd

/-- The entropy port and the workers' order are as before: true of every command but FRAND, FFTP and IFFTP. -/
def SameDraws (s t : State) : Prop := t.entropy = s.entropy ∧ t.draws = s.draws ∧ t.turns = s.turns

/-- The state after an error of the command word `w`: the six assignments of R262 and nothing else. -/
def afterError (s : State) (w : Word) (code sub : BitVec 8) (val : Nat) : State :=
  { s with
    err := code
    errf := true
    errinfo := sub ++ 0#24 ++ BitVec.ofNat 32 val
    errcmd := w
    inflight := none
    done := true }

end Sys2Proof.Machine
end

