-- ==== Sys2Proof/Certificates/Slice0/Reference.lean ====
section
/-!
DEFINITION. The pseudocode of the spec's rules written loop by loop on indices, the spec's own lists (which offsets are
refused, which commands need a basis, which errors a command may raise), for the statements to compare the model with.

Nothing here is used by the machine. A `for` of the pseudocode is a fold over its range in the order the rule gives it, and
`p[i] = v` is `List.set`.
-/

namespace Sys2Proof.Reference

open Sys2Proof.Machine

/-- `p[i]` (R10). -/
def at' (p : List Word) (i : Nat) : Word := p.getD i 0#64

/-- `p[i] = p[i] + v` (R121). -/
def addAt (p : List Word) (i : Nat) (v : Word) : List Word := p.set i (at' p i ^^^ v)

/-- `for x in [0, k)`: the body folded over the range. -/
def loop {α : Type} (k : Nat) (body : α → Nat → α) (start : α) : α := (List.range k).foldl body start

/-- `for x from k - 1 downto 0`. -/
def loopDown {α : Type} (k : Nat) (body : α → Nat → α) (start : α) : α := (List.range k).reverse.foldl body start

/-- The innermost body of R160 at block start `o`. -/
def radixBody (d2 d4 o : Nat) (p : List Word) (k : Nat) : List Word :=
  let p := addAt p (o + d2 + k) (at' p (o + d2 + d4 + k))
  addAt p (o + d4 + k) (at' p (o + d2 + k))

/-- The innermost body of R161 at block start `o`. -/
def iradixBody (d2 d4 o : Nat) (p : List Word) (k : Nat) : List Word :=
  let p := addAt p (o + d4 + k) (at' p (o + d2 + k))
  addAt p (o + d2 + k) (at' p (o + d2 + d4 + k))

/-- The two inner loops of R160 and R161 at one `i`, with either body. -/
def radixInner (body : Nat → Nat → Nat → List Word → Nat → List Word) (m : Nat) (p : List Word) (i : Nat) : List Word :=
  let d := 2 ^ (m - i)
  loop (2 ^ i) (fun p blk => loop (d / 4) (body (d / 2) (d / 4) (blk * d)) p) p

/-- `radix(p)` as R160 writes it. -/
def radixLoops (m : Nat) (p : List Word) : List Word :=
  loop (m - 1) (fun p r => loop (m - r - 1) (radixInner radixBody m) p) p

/-- `iradix(p)` as R161 writes it. -/
def iradixLoops (m : Nat) (p : List Word) : List Word :=
  loopDown (m - 1) (fun p r => loopDown (m - r - 1) (radixInner iradixBody m) p) p

/-- The leaf pass of R171. -/
def leafLoop (m : Nat) (p : List Word) : List Word :=
  loop (2 ^ (m - 1)) (fun p i => addAt p (i + 2 ^ (m - 1)) (at' p i)) p

/-- One butterfly of R171 or R180 on `p[k]`, `p[k + d]`. -/
def pairBody (f : Word → Word → Word → Word × Word) (g : Word) (d : Nat) (p : List Word) (k : Nat) : List Word :=
  let r := f (at' p k) (at' p (k + d)) g
  (p.set k r.1).set (k + d) r.2

/-- The two inner loops of R171 and R180 at merge level `i`. -/
def levelLoops (f : Word → Word → Word → Word × Word) (m : Nat) (sub p : List Word) (i : Nat) : List Word :=
  let d := 2 ^ (m - 1 - i)
  loop (2 ^ i) (fun p j => loop d (fun p k => pairBody f (at' sub j) d p (j * (2 * d) + k)) p) p

/-- `fftl(p)` as R171 writes it. -/
def fftlLoops (F : GF) (m : Nat) (sub p : List Word) : List Word :=
  loop (m - 1) (fun p i => levelLoops F.bfly m sub p (i + 1)) (leafLoop m p)

/-- `ifftl(p)` as R180 writes it. -/
def ifftlLoops (F : GF) (m : Nat) (sub p : List Word) : List Word :=
  leafLoop m (loopDown (m - 1) (fun p i => levelLoops F.ibfly m sub p (i + 1)) p)

/-- `fft(p)` of R173 in loops. -/
def fftLoops (F : GF) (m : Nat) (sub p : List Word) : List Word := fftlLoops F m sub (radixLoops m p)

/-- `ifft(p)` of R173 in loops. -/
def ifftLoops (F : GF) (m : Nat) (sub p : List Word) : List Word := iradixLoops m (ifftlLoops F m sub p)

/-- `eval(p, x)` as R193 writes it. -/
def evalLoop (F : GF) (p : List Word) (x : Word) : Word :=
  loopDown p.length (fun acc i => F.mul acc x ^^^ at' p i) 0#64

/-- `mul_naive_poly(p, q)` as R195 writes it. -/
def convLoops (F : GF) (p q : List Word) : List Word :=
  if p.length = 0 ∨ q.length = 0 then []
  else
    loop p.length (fun r i => loop q.length (fun r j => addAt r (i + j) (F.mul (at' p i) (at' q j))) r)
      (zeros (p.length + q.length - 1))

/-- The running power of R204 before index `i`: `k^i`. -/
def power (F : GF) (k : Word) : Nat → Word
  | 0 => 1#64
  | i + 1 => F.mul (power F k i) k

/-- `b[i]` of the tower (R150). -/
def towerAt (F : GF) (g0 : Word) : Nat → Word
  | 0 => g0
  | i + 1 => F.sqr (towerAt F g0 i) ^^^ towerAt F g0 i

/-- The product of the linear factors `(x + root)`, schoolbook (R212). -/
def rootProduct (F : GF) (roots : List Word) : List Word := roots.foldl (fun z x => convLoops F z [x, 1#64]) [1#64]

/-- `fft_naive(p)` of R186: direct evaluation at every point of `COMB`. -/
def fftNaive (F : GF) (m : Nat) (comb p : List Word) : List Word :=
  (List.range (2 ^ m)).map fun t => evalLoop F p (at' comb t)

/-- `expand(p, L)` of R191 for `len(p) ≤ L`. -/
def pad (p : List Word) (L : Nat) : List Word := p ++ List.replicate (L - p.length) 0#64

/-- `substitute(p, k)` of R204, coefficient by coefficient. -/
def scale (F : GF) (p : List Word) (k : Word) : List Word :=
  (List.range p.length).map fun i => F.mul (at' p i) (power F k i)

/-- The elementwise product of R197. -/
def product (F : GF) (p q : List Word) : List Word :=
  (List.range p.length).map fun i => F.mul (at' p i) (at' q i)

/-- `pmul(p, q)` of R199 in loops. -/
def pmulLoops (F : GF) (m : Nat) (sub p q : List Word) : List Word :=
  ifftLoops F m sub (product F (fftLoops F m sub (pad p (2 ^ m))) (fftLoops F m sub (pad q (2 ^ m))))

/-- `pdiv(p, q)` of R210 in loops, the samples of the divisor inverted one by one (R209). -/
def pdivLoops (F : GF) (m : Nat) (sub p q : List Word) : List Word :=
  ifftLoops F m sub
    (product F (fftLoops F m sub (pad p (2 ^ m))) ((fftLoops F m sub (pad q (2 ^ m))).map F.inv))

/-- `d` is `deg(p)` of R191: the largest index of a nonzero coefficient, or -1. -/
def IsDegree (p : List Word) (d : Int) : Prop :=
  (d = -1 ∧ ∀ i, at' p i = 0#64) ∨ ∃ k : Nat, d = k ∧ at' p k ≠ 0#64 ∧ ∀ i, k < i → at' p i = 0#64

/-- `q` is `trim(p)` of R191. -/
def IsTrim (p q : List Word) : Prop := ∃ d, IsDegree p d ∧ q = p.take (d + 1).toNat

/-- Steps 1 to 7 of R224: the quotient before it is trimmed. -/
def recoverQuotientLoops (F : GF) (m : Nat) (comb sub cw idx : List Word) (k : Word) : List Word :=
  let Z := rootProduct F (idx.map fun i => at' comb i.toNat)
  let DZ := ifftLoops F m sub (product F (fftLoops F m sub (pad Z (2 ^ m))) cw)
  pdivLoops F m sub (scale F DZ k) (scale F Z k)

/-- `basis`, `comb`, `sub` are the tables of generator `g0` and span `m` as R150 to R154 give them entry by entry. -/
structure TablesAre (F : GF) (g0 : Word) (m : Nat) (basis comb sub : List Word) : Prop where
  basisLength : basis.length = m
  basisEntry : ∀ t, t < m → at' basis t = towerAt F g0 (F.n - m + t)
  combLength : comb.length = 2 ^ m
  combZero : at' comb 0 = 0#64
  combEntry : ∀ i, i < m → ∀ j, j < 2 ^ i → at' comb (2 ^ i + j) = at' comb j ^^^ at' basis (m - 1 - i)
  subLength : sub.length = 2 ^ (m - 1)
  subEntry : ∀ k, k < 2 ^ (m - 1) → at' sub k = at' comb (2 * k)

/-- What a host write of `v` to an element stores: `v[n-1:0]`, zero-extended (R66). -/
def narrow : Width → Word → Word
  | .gf16, v => (v.setWidth 16).setWidth 64
  | .gf64, v => v

/-- A field as R6 and R120 describe it, for any polynomial: a width of 1 to 64 bits and `RED` of that width. -/
structure FieldOk (F : GF) : Prop where
  width : 1 ≤ F.n ∧ F.n ≤ 64
  reduced : F.red.toNat < 2 ^ F.n

/-- `n`-bit contents of register `i` (R129). -/
def reg (s : State) (i : EReg) : Word := narrow s.width s.e[i]

/-- The command word of R98, from the fields as numbers. -/
def wordOf (op d a b c imm : Nat) : Word :=
  BitVec.ofNat 64 (op * 2 ^ 56 + d * 2 ^ 52 + a * 2 ^ 48 + b * 2 ^ 44 + c * 2 ^ 40 + imm)

/-- The word with these fields is the command `i` (R95, R98, R100). -/
def Assembles (i : Instr) (op d a b c imm : Nat) : Prop := decode (wordOf op d a b c imm) = .ok i

/-- From every state the command completes without an error, register `d` then holds `value`, and nothing else changes but
what every completion changes. -/
def ScalarResult (i : Instr) (d : EReg) (value : State → Word) : Prop :=
  ∀ s, ∃ t, exec i s = .next t ∧ t.e[d] = value s ∧ Completes [d] [] false s t ∧ SameDraws s t

/-- From every state with `ok` the command completes without an error, buffer `d` then is the list `value` (so `LEN[d]` is
its length), and nothing else changes but what every completion changes. -/
def BufferResult (i : Instr) (d : PReg) (ok : State → Prop) (value : State → List Word) : Prop :=
  ∀ s, ok s → ∃ t, exec i s = .next t ∧ t.buf d = value s ∧ Completes [] [d] false s t ∧ SameDraws s t

/-- In every state with `cond` the command ends with the error: the six assignments of R262 and nothing else. -/
def Fails (i : Instr) (cond : State → Prop) (code sub : BitVec 8) (val : State → Nat) : Prop :=
  ∀ s, cond s → exec i s = .next (afterError s (encode i) code sub (val s))

/-- A basis is active and buffer `d` has exactly `2^m` elements (R172). -/
def Fits (s : State) (d : PReg) : Prop := s.basisM ≠ 0 ∧ s.len d = 2 ^ s.basisM

/-- The twiddle table has the `2^(m-1)` entries of R31: part of R40 (d). -/
def SubFits (s : State) : Prop := s.sub.length = 2 ^ (s.basisM - 1)

/-- What the four sequential transforms share: the two errors in order, and the result (R172, R174). -/
def TransformRule (i : Instr) (d : PReg) (value : State → List Word) : Prop :=
  Fails i (fun s => s.basisM = 0) 0x11 0 (fun _ => 0) ∧
    Fails i (fun s => s.basisM ≠ 0 ∧ s.len d ≠ 2 ^ s.basisM) 0x02 2 (fun s => s.len d) ∧
    BufferResult i d (fun s => Fits s d ∧ SubFits s) value

/-- The conditions of R226 up to the index list: a basis, the codeword's length, an even nonempty list that fits, the budget. -/
def RecoverLengths (s : State) (a b : PReg) (dlen : Nat) : Prop :=
  s.basisM ≠ 0 ∧ s.len a = 2 ^ s.basisM ∧ s.len b ≠ 0 ∧ s.len b % 2 = 0 ∧ s.len b + 1 ≤ 2 ^ s.basisM ∧
    s.len b + dlen ≤ 2 ^ s.basisM

/-- Position `t` of the index list names a slot in range that holds 0 (R226). -/
def SlotErased (s : State) (a b : PReg) (t : Nat) : Prop :=
  (at' (s.buf b) t).toNat < 2 ^ s.basisM ∧ at' (s.buf a) (at' (s.buf b) t).toNat = 0#64

/-- An offset the window does not map (R63). -/
def unmapped (off : Nat) : Prop :=
  (0x007 ≤ off ∧ off ≤ 0x00F) ∨ (0x028 ≤ off ∧ off ≤ 0x03F) ∨ (0x050 ≤ off ∧ off ≤ 0xFFFF) ∨
    (0x28000 ≤ off ∧ off ≤ 0xFFFFF) ∨ 0x180000 ≤ off

/-- A buffer word at or beyond its buffer's length (R67, R70). -/
def beyondLength (s : State) (off : Nat) : Prop :=
  ∃ b : PReg, ∃ i : Nat, i < 65536 ∧ off = 0x100000 + b.val * 0x10000 + i ∧ s.len b ≤ i

/-- A table entry outside the valid range of R68. -/
def beyondSpan (s : State) (off : Nat) : Prop :=
  (∃ i, i < 16 ∧ off = 0x040 + i ∧ s.basisM ≤ i) ∨
    (∃ i, i < 65536 ∧ off = 0x10000 + i ∧ (s.basisM = 0 ∨ 2 ^ s.basisM ≤ i)) ∨
    (∃ k, k < 32768 ∧ off = 0x20000 + k ∧ (s.basisM = 0 ∨ 2 ^ (s.basisM - 1) ≤ k))

/-- An offset no host write reaches: `ID`, `ERRINFO`, `ERRCMD`, `PARAM`, a length, a table (R70). -/
def readOnly (off : Nat) : Prop :=
  off = 0x000 ∨ off = 0x004 ∨ off = 0x005 ∨ off = 0x006 ∨ (0x020 ≤ off ∧ off < 0x028) ∨ tableOffset off

/-- The refused accesses of R70. -/
def refused (s : State) : Access → Prop
  | .read off => unmapped off ∨ beyondSpan s off ∨ beyondLength s off
  | .write off _ => unmapped off ∨ readOnly off ∨ beyondLength s off

/-- The commands that need a basis (R260, `E_NOBASIS`). -/
def needsBasis : Instr → Bool
  | .fft .. | .ifft .. | .fftl .. | .ifftl .. | .fftp .. | .ifftp .. | .pmul .. | .pdiv .. | .zpoly .. | .encode ..
  | .recover .. => true
  | .nop | .fadd .. | .fsub .. | .fneg .. | .fmul .. | .fmuln .. | .fsqr .. | .finv .. | .fbfly .. | .fibfly .. | .frand ..
  | .basis .. | .radix .. | .iradix .. | .eval .. | .pmuln .. | .muls .. | .subst .. | .invs .. | .resize .. | .trim ..
  | .copy .. => false

/-- The error codes a command may raise by the "raised by" column of R260. `E_ILLEGAL` belongs to words, and among commands
to a butterfly on one register, which is no word's command (R101). -/
def mayRaise : Instr → List (BitVec 8)
  | .basis .. => [0x01, 0x12]
  | .radix .. | .iradix .. => [0x02]
  | .fft .. | .ifft .. | .fftl .. | .ifftl .. | .fftp .. | .ifftp .. | .pmul .. | .pdiv .. | .encode .. => [0x02, 0x11]
  | .zpoly .. => [0x02, 0x11, 0x14]
  | .recover .. => [0x02, 0x04, 0x11, 0x14]
  | .muls .. => [0x03]
  | .pmuln .. | .resize .. => [0x13]
  | .fbfly d a _ | .fibfly d a _ => if d = a then [0x10] else []
  | .nop | .fadd .. | .fsub .. | .fneg .. | .fmul .. | .fmuln .. | .fsqr .. | .finv .. | .frand .. | .eval .. | .subst ..
  | .invs .. | .trim .. | .copy .. => []

end Sys2Proof.Reference
end

