-- ==== Sys2Proof/Certificates/Slice0/Obligations.lean ====
section
/-!
DEFINITION. The statements about GFCORE, in the order of the spec's files: the command word, the host window, errors, the
commands family by family, the invariant. Each says which rule of spec/ it formalises. `Fails`, `ScalarResult` and
`BufferResult` (Reference.lean) are the forms most of them share.
-/

open Sys2Proof Sys2Proof.Machine Sys2Proof.Reference

/-! ## The step and the command word -/

/-- The step runs the accepted word: with nothing to do for the host, with the host idle, with a held access waiting, as
`withFetchWord` places it, and after a write of `CMD` (46_buffer_system.md R244 to R246; log entry 4). -/
def Obligations.StepRunsAcceptedCommand : Prop :=
  (∀ (s : State) w i, decode w = .ok i → s.inflight = some w →
    (s.inputs = [] → step s = exec i s) ∧
    (∀ rest, s.inputs = .idle :: rest → step s = exec i (s.setInputs rest)) ∧
    (∀ a rest, s.inputs = .access a :: rest → heldWhileBusy a = true → step s = exec i s)) ∧
  (∀ (s : State) nbits v i, decode (tableWord nbits v) = .ok i →
    step (s.withFetchWord nbits v) = exec i { s with inflight := some (tableWord nbits v) }) ∧
  (∀ (s : State) w i rest, decode w = .ok i → s.busy = false → s.errf = false → s.inputs = .access (.write 0x003 w) :: rest →
    (rest = [] ∨ ∃ a more, rest = .access a :: more ∧ heldWhileBusy a = true) →
    ∃ t, step s = .next t ∧ t = { s with inflight := some w, inputs := rest } ∧ step t = exec i t)

/-- Words written out in the spec, one or more a family, decode to the commands they stand for (95_test_vectors.md
section 2.1). -/
def Obligations.SpecWordsDecode : Prop :=
  decode 0x0000_0000_0000_0000#64 = .ok .nop ∧
  decode 0x1331_2000_0000_0000#64 = .ok (.fmul 3 1 2) ∧
  decode 0x1821_3000_0000_0000#64 = .ok (.fibfly 2 1 3) ∧
  decode 0x2005_0000_0000_0010#64 = .ok (.basis 5 16#32) ∧
  decode 0x3160_0000_0000_0000#64 = .ok (.iradix 6) ∧
  decode 0x4410_0000_0000_0000#64 = .ok (.fftp 1) ∧
  decode 0x50F7_E000_0000_0000#64 = .ok (.eval 15 7 14) ∧
  decode 0x5621_0000_0000_0000#64 = .ok (.pdiv 2 1 0) ∧
  decode 0x6176_5F00_0001_0000#64 = .ok (.recover 7 6 5 15 65536#32) ∧
  decode 0x7070_0000_0001_0000#64 = .ok (.resize 7 65536#32)

/-- Decoding the word of a well-formed command gives the command back, every operand at every value (30_encoding.md R90,
R91, R95, R98, R100). -/
def Obligations.DecodeAfterEncode : Prop := ∀ i : Instr, i.wellFormed = true → decode (encode i) = .ok i

/-- A word that decodes is the word of that command: no bit of a word is ignored, so each command has one word (R93). -/
def Obligations.EncodeAfterDecode : Prop := ∀ w i, decode w = .ok i → encode i = w ∧ i.wellFormed = true

/-- R100: a word is a command exactly when it matches a row of the map under the row's mask and is no butterfly on one
register; at most one row matches. -/
def Obligations.DecodeIsTheRowMatch : Prop :=
  ∀ w, (∀ i, decode w = .ok i ↔
      ∃ r ∈ rows, w &&& r.fmt.mask = r.matchWord ∧ r.build (fieldsOf w) = i ∧
        ¬ ∃ d b : EReg, i = .fbfly d d b ∨ i = .fibfly d d b) ∧
    (rows.filter fun r => w &&& r.fmt.mask == r.matchWord).length ≤ 1

/-- R96: the unassigned opcodes, the words that break R93 or R101, the one word of `NOP`, and what an illegal word does: it is
accepted like any command and completes with `E_ILLEGAL`, changing nothing else. -/
def Obligations.IllegalWordsRaiseIllegal : Prop :=
  (∀ w : Word, decode w = .error .unassignedOpcode ↔
    (0x01 ≤ w.toNat / 2 ^ 56 ∧ w.toNat / 2 ^ 56 ≤ 0x0F) ∨ (0x1A ≤ w.toNat / 2 ^ 56 ∧ w.toNat / 2 ^ 56 ≤ 0x1F) ∨
    (0x21 ≤ w.toNat / 2 ^ 56 ∧ w.toNat / 2 ^ 56 ≤ 0x2F) ∨ (0x32 ≤ w.toNat / 2 ^ 56 ∧ w.toNat / 2 ^ 56 ≤ 0x3F) ∨
    (0x46 ≤ w.toNat / 2 ^ 56 ∧ w.toNat / 2 ^ 56 ≤ 0x4F) ∨ (0x58 ≤ w.toNat / 2 ^ 56 ∧ w.toNat / 2 ^ 56 ≤ 0x5F) ∨
    (0x62 ≤ w.toNat / 2 ^ 56 ∧ w.toNat / 2 ^ 56 ≤ 0x6F) ∨ 0x73 ≤ w.toNat / 2 ^ 56) ∧
  (∀ w, ∀ r ∈ rows, opcodeOf w = r.opcode → w &&& r.fmt.mask ≠ r.matchWord → decode w = .error .fieldNotZero) ∧
  (∀ d b : EReg, decode (encode (.fbfly d d b)) = .error .sameRegister ∧
    decode (encode (.fibfly d d b)) = .error .sameRegister) ∧
  (∀ w, decode w = .ok .nop ↔ w = 0#64) ∧
  (∀ (s : State) (w : Word), (∀ i, decode w ≠ .ok i) →
    (s.inflight = some w → s.inputs = [] → step s = .next (afterError s w 0x10 0 0)) ∧
    (s.busy = false → s.errf = false → s.inputs = [.access (.write 0x003 w)] →
      step s = .next { s with inflight := some w, inputs := [] }))

/-- R101: a butterfly on one register is illegal, and no other coincidence of operands is. -/
def Obligations.OnlyButterflyCoincidenceIsIllegal : Prop :=
  (∀ d b : EReg, decode (encode (.fbfly d d b)) = .error .sameRegister ∧
    decode (encode (.fibfly d d b)) = .error .sameRegister) ∧
  (∀ i : Instr, (∀ d b : EReg, i ≠ .fbfly d d b ∧ i ≠ .fibfly d d b) → decode (encode i) = .ok i)

/-! ## The parameters -/

/-- The parameters after reset are the defaults of R6, of the degrees R6 asks for, with the reduction words it gives, and both
are irreducible (00_scope.md section 4; R7 reports the computation). That the state holds the parameters, and that the state
after reset holds the defaults, is the model's choice (log entry 1). -/
def Obligations.DefaultPolynomialsAreIrreducible : Prop :=
  State.reset.params = ⟨0x1002B#17, 0x1000000000000001B#65⟩ ∧ State.reset.params.Valid ∧
    (State.reset.params.field .gf16).red = 0x2B#64 ∧ (State.reset.params.field .gf64).red = 0x1B#64

/-- R291: nothing architectural survives either reset, the constants read the same before and after, and the parameters stay,
as they do under every step. -/
def Obligations.ParametersAndConstantsSurviveReset : Prop :=
  (∀ (s t : State), step s = .next t → t.params = s.params) ∧
  (∀ (s : State) (v : Word), v.getLsbD 63 = true → SameBlock State.reset (s.hostWrite 0x001 v) ∧
    (s.hostWrite 0x001 v).params = s.params ∧ (s.hostWrite 0x001 v).window 0x000 = s.window 0x000 ∧
    (s.hostWrite 0x001 v).window 0x006 = s.window 0x006) ∧
  (∀ (s : State) rest, s.inputs = .rst :: rest → ∃ t, step s = .next t ∧ SameBlock State.reset t ∧ t.params = s.params ∧
    t.window 0x000 = s.window 0x000 ∧ t.window 0x006 = s.window 0x006)

/-! ## Host accesses -/

/-- R245: what a write of `CMD` does in the three cases, and how the host leaves the error state. -/
def Obligations.CmdWriteIsHeldDroppedOrAccepted : Prop :=
  (∀ (s : State) w rest, s.inputs = .access (.write 0x003 w) :: rest →
    (s.busy = true → ∃ t, step s = .next t ∧ t.inputs = s.inputs) ∧
    (s.busy = false → s.errf = true → step s = .next { s with inputs := rest, cmddrop := true }) ∧
    (s.busy = false → s.errf = false → step s = .next { s with inputs := rest, inflight := some w })) ∧
  (∀ (s : State) (v : Word) rest, s.inputs = .access (.write 0x002 v) :: rest → v.getLsbD 2 = true → ∃ t, step s = .next t ∧ t.errf = false)

/-- R69: while a command is in flight an access waits for the ENGINE's completion step, sets no flag and then acts on the
state as it is; the named reads and a write of `STATUS` do not wait. The hold is lifted in one step unless the entropy port is
dead (R304). -/
def Obligations.HeldAccessesWaitForCompletion : Prop :=
  (∀ (s : State) a rest, s.inputs = .access a :: rest → s.busy = true →
    ((∃ off ∈ [0x000, 0x006, 0x001, 0x002, 0x004, 0x005], a = .read off) ∨ (∃ v, a = .write 0x002 v) →
      step s = .next ((s.setInputs rest).hostAccess a)) ∧
    ((∀ off ∈ [0x000, 0x006, 0x001, 0x002, 0x004, 0x005], a ≠ .read off) → (∀ v, a ≠ .write 0x002 v) →
      ∃ t, step s = .next t ∧ t.inputs = s.inputs ∧ t.buserr = s.buserr ∧ t.cmddrop = s.cmddrop ∧
        (s.entropyDead = false → t.busy = false))) ∧
  (∀ (s : State) a rest, s.inputs = .access a :: rest → s.busy = false → step s = .next ((s.setInputs rest).hostAccess a))

/-- R271 and the write-1-to-clear bits of `STATUS`: what a write of `STATUS` does, bit by bit, and that a command is accepted
after it. -/
def Obligations.StatusWriteLeavesErrorState : Prop :=
  ∀ (s : State) (v : Word), s.hostWrite 0x002 v = { s with
      done := s.done && !v.getLsbD 1
      errf := s.errf && !v.getLsbD 2
      buserr := s.buserr && !v.getLsbD 3
      cmddrop := s.cmddrop && !v.getLsbD 4
      err := if v.getLsbD 2 then 0#8 else s.err
      errinfo := if v.getLsbD 2 then 0#64 else s.errinfo
      errcmd := if v.getLsbD 2 then 0#64 else s.errcmd } ∧
    (v.getLsbD 2 = true → ∀ w, ((s.hostWrite 0x002 v).hostWrite 0x003 w).inflight = some w)

/-- R39: a write of `CTRL` that changes `WIDTH` clears every element, length and the basis; one that keeps it changes the two
enables only. -/
def Obligations.WidthChangeClearsElements : Prop :=
  ∀ (s : State) (v : Word), v.getLsbD 63 = false →
    (v.getLsbD 0 ≠ s.width.toBool → s.hostWrite 0x001 v = { s with
      e := Vector.replicate 16 0#64
      mem := Vector.replicate 8 []
      basisM := 0
      basis := []
      comb := []
      sub := []
      width := if v.getLsbD 0 then .gf64 else .gf16
      ieDone := v.getLsbD 1
      ieErr := v.getLsbD 2 }) ∧
    (v.getLsbD 0 = s.width.toBool → s.hostWrite 0x001 v = { s with ieDone := v.getLsbD 1, ieErr := v.getLsbD 2 })

/-- R292 and R294: a soft reset and the reset input leave the block in its reset state, from any state; a soft reset waits
while a command runs, the reset input does not. -/
def Obligations.ResetsLeaveTheResetState : Prop :=
  (∀ (s : State) (v : Word), v.getLsbD 63 = true → SameBlock State.reset (s.hostWrite 0x001 v)) ∧
  (∀ (s : State) (v : Word) rest, v.getLsbD 63 = true → s.busy = true → s.inputs = .access (.write 0x001 v) :: rest →
    ∃ t, step s = .next t ∧ t.inputs = s.inputs) ∧
  (∀ (s : State) rest, s.inputs = .rst :: rest → ∃ t, step s = .next t ∧ SameBlock State.reset t ∧ t.inputs = rest)

/-- R38: the state after reset, as the host reads it; buffers and tables have no readable word. -/
def Obligations.ResetValues : Prop :=
  (∀ i : EReg, State.reset.window (0x010 + i.val) = some 0#64) ∧
  (∀ b : PReg, State.reset.window (0x020 + b.val) = some 0#64) ∧
  (∀ off, 0x040 ≤ off → off < 0x050 ∨ 0x10000 ≤ off → State.reset.window off = none) ∧
  State.reset.window 0x001 = some 0#64 ∧ State.reset.window 0x002 = some 0#64 ∧
  State.reset.window 0x004 = some 0#64 ∧ State.reset.window 0x005 = some 0#64 ∧
  State.reset.window 0x000 = some 0x4746_434F_5245_0001#64 ∧ State.reset.window 0x006 = some 0x1008_1010#64 ∧
  State.reset.inflight = none

/-- R70: the refused accesses and no others set `BUSERR`; a refused read returns 0, a refused write changes nothing; `BUSERR`
stays until a write of `STATUS` clears it or the block is reset. -/
def Obligations.RefusedAccessesSetBuserr : Prop :=
  (∀ (s : State) off, refused s (.read off) → s.hostRead off = { s with rdata := 0#64, buserr := true }) ∧
  (∀ (s : State) off, ¬ refused s (.read off) → ∃ v, s.window off = some v ∧ s.hostRead off = { s with rdata := v }) ∧
  (∀ (s : State) off v, refused s (.write off v) → s.hostWrite off v = { s with buserr := true }) ∧
  (∀ (s : State) off v, ¬ refused s (.write off v) → (s.hostWrite off v).buserr = true → s.buserr = true) ∧
  (∀ (s : State), s.hostRead 0x003 = { s with rdata := 0#64 }) ∧
  (∀ (s : State) off v, s.buserr = true → off ≠ 0x001 → off ≠ 0x002 → (s.hostWrite off v).buserr = true) ∧
  (∀ i (s t : State), exec i s = .next t → t.buserr = s.buserr)

/-- R65 and R68: the lengths and the tables in the window, their valid ranges, that no write reaches them and that their
reads are held. -/
def Obligations.LengthsAndTablesAreReadOnly : Prop :=
  (∀ (s : State), ∀ b : PReg, s.window (0x020 + b.val) = some (BitVec.ofNat 64 (s.len b)) ∧
    ∀ v, s.hostWrite (0x020 + b.val) v = { s with buserr := true }) ∧
  (∀ (s : State), ∀ i, i < 16 → s.window (0x040 + i) = if i < s.basisM then some (at' s.basis i) else none) ∧
  (∀ (s : State), ∀ i, i < 65536 → s.window (0x10000 + i) =
    if s.basisM ≠ 0 ∧ i < 2 ^ s.basisM then some (at' s.comb i) else none) ∧
  (∀ (s : State), ∀ k, k < 32768 → s.window (0x20000 + k) =
    if s.basisM ≠ 0 ∧ k < 2 ^ (s.basisM - 1) then some (at' s.sub k) else none) ∧
  (∀ (s : State) off v, tableOffset off → s.hostWrite off v = { s with buserr := true }) ∧
  (∀ (s : State) off rest, (0x020 ≤ off ∧ off < 0x028) ∨ tableOffset off → s.busy = true → s.inputs = .access (.read off) :: rest →
    ∃ t, step s = .next t ∧ t.inputs = s.inputs)

/-- R64, R66, R67: elements in the window. A write stores the low `n` bits, a read returns them with zeros above, and a word at
or beyond the length does not exist. -/
def Obligations.ElementsInTheWindow : Prop :=
  (∀ (s : State) (i : EReg), s.window (0x010 + i.val) = some (reg s i) ∧
    ∀ v, s.hostWrite (0x010 + i.val) v = { s with e := s.e.set i (narrow s.width v) }) ∧
  (∀ (s : State) (b : PReg) i, i < 65536 → i < s.len b →
    s.window (0x100000 + b.val * 0x10000 + i) = some (narrow s.width (at' (s.buf b) i)) ∧
    ∀ v, s.hostWrite (0x100000 + b.val * 0x10000 + i) v =
      { s with mem := s.mem.set b ((s.buf b).set i (narrow s.width v)) }) ∧
  (∀ (s : State) (b : PReg) i, i < 65536 → s.len b ≤ i →
    s.window (0x100000 + b.val * 0x10000 + i) = none ∧
    ∀ v, s.hostWrite (0x100000 + b.val * 0x10000 + i) v = { s with buserr := true }) ∧
  (∀ (s : State) off rest, (0x010 ≤ off ∧ off < 0x020) ∨ (0x100000 ≤ off ∧ off < 0x180000) → s.busy = true →
    (s.inputs = .access (.read off) :: rest ∨ ∃ v, s.inputs = .access (.write off v) :: rest) →
    ∃ t, step s = .next t ∧ t.inputs = s.inputs)

/-- The layout of `STATUS`, `CTRL`, `ERRINFO`, `ERRCMD` and `CMD` as the host reads them (10_state.md section 5). -/
def Obligations.StatusAndControlLayout : Prop :=
  ∀ (s : State),
    (∃ w, s.window 0x002 = some w ∧ w.getLsbD 0 = s.inflight.isSome ∧ w.getLsbD 1 = s.done ∧ w.getLsbD 2 = s.errf ∧
      w.getLsbD 3 = s.buserr ∧ w.getLsbD 4 = s.cmddrop ∧ w.extractLsb' 5 3 = 0#3 ∧ w.extractLsb' 8 8 = s.err ∧
      (w.extractLsb' 16 8).toNat = s.basisM % 256 ∧ w.extractLsb' 24 40 = 0#40) ∧
    (∃ w, s.window 0x001 = some w ∧ w.getLsbD 0 = s.width.toBool ∧ w.getLsbD 1 = s.ieDone ∧ w.getLsbD 2 = s.ieErr ∧
      w.extractLsb' 3 61 = 0#61) ∧
    s.window 0x003 = some 0#64 ∧ s.window 0x004 = some s.errinfo ∧ s.window 0x005 = some s.errcmd

/-- R33, R34: the two constants, and that a write of either is ignored and sets `BUSERR`. -/
def Obligations.IdAndParamAreConstant : Prop :=
  ∀ (s : State), s.window 0x000 = some 0x4746_434F_5245_0001#64 ∧ s.window 0x006 = some 0x0000_0000_1008_1010#64 ∧
    ∀ v, s.hostWrite 0x000 v = { s with buserr := true } ∧ s.hostWrite 0x006 v = { s with buserr := true }

/-- R268: the interrupt line is a function of four bits that the host reads, it is 0 after reset, and it falls when the enable or
the status bit is cleared. -/
def Obligations.InterruptLine : Prop :=
  (∀ (s : State) (status ctrl : Word), s.window 0x002 = some status → s.window 0x001 = some ctrl →
    s.irq = ((status.getLsbD 1 && ctrl.getLsbD 1) || (status.getLsbD 2 && ctrl.getLsbD 2))) ∧
  State.reset.irq = false ∧
  (∀ (s : State), (s.hostWrite 0x001 ((BitVec.ofBool s.width.toBool).setWidth 64)).irq = false) ∧
  (∀ (s : State), (s.hostWrite 0x002 0x6#64).irq = false)

/-- Which bus accesses a platform bridge forwards, the byte order there, and that the model has no step for any other
(20_memory.md section 5). What is forwarded becomes the host access it stands for, held or taken as that is. That an access
below the base is not forwarded, and that one above the last mapped word is, is the model's choice (log entry 3). -/
def Obligations.BridgeForwardsWholeAlignedWords : Prop :=
  (∀ base off, base % 8 = 0 → bridge base (.read (base + 8 * off) 8) = some (.read off)) ∧
  (∀ base off (w : Word) bytes, base % 8 = 0 → bytes.length = 8 →
    (∀ k, k < 8 → bytes[k]? = some (w.extractLsb' (8 * k) 8)) →
    bridge base (.write (base + 8 * off) bytes) = some (.write off w)) ∧
  (∀ base addr size, size ≠ 8 ∨ addr % 8 ≠ 0 → bridge base (.read addr size) = none) ∧
  (∀ base addr (bytes : List (BitVec 8)), bytes.length ≠ 8 ∨ addr % 8 ≠ 0 → bridge base (.write addr bytes) = none) ∧
  (∀ (s : State) x rest, s.inputs = .bus x :: rest → bridge Config.windowBase x = none → step s = .refused .busAccessNotForwarded) ∧
  (∀ (s : State) x a rest, s.inputs = .bus x :: rest → bridge Config.windowBase x = some a →
    (s.busy = false ∨ heldWhileBusy a = false → step s = .next ((s.setInputs rest).hostAccess a)) ∧
    (s.busy = true → heldWhileBusy a = true → ∃ t, step s = .next t ∧ t.inputs = s.inputs))

/-! ## Errors and completion -/

/-- R262: errors are precise. When the run of the word in flight ends in the error state, the state is the state before it plus
the six assignments, the code one of the nine of R260. -/
def Obligations.ErrorsArePrecise : Prop :=
  ∀ (s t : State) w, s.inflight = some w → s.inputs = [] → s.errf = false → step s = .next t → t.errf = true →
    ∃ code ∈ [0x01#8, 0x02#8, 0x03#8, 0x04#8, 0x10#8, 0x11#8, 0x12#8, 0x13#8, 0x14#8], ∃ (sub : BitVec 8) (val : Nat),
      t = { s with
      err := code
      errf := true
      errinfo := sub ++ 0#24 ++ BitVec.ofNat 32 val
      errcmd := w
      inflight := none
      done := true }

/-- No command raises an error that the list of R260 does not name for it (60_exceptions.md section 1). The entry for a
butterfly on one register is the model's choice (log entry 10). -/
def Obligations.OnlyListedErrors : Prop :=
  ∀ i (s t : State), exec i s = .next t → s.errf = false → t.errf = true → t.err ∈ mayRaise i

/-- Every command completes in one step, but for `FRAND` under a dead entropy port (70_reset_and_hazards.md section 4; the step
is log entry 9). -/
def Obligations.EveryCommandCompletes : Prop :=
  ∀ i (s : State), ∃ t, exec i s = .next t ∧ ((∀ d, i ≠ .frand d) ∨ s.entropyDead = false → t.busy = false ∧ t.done = true)

/-- Without a basis, exactly the commands of the `E_NOBASIS` row raise it, before any other check (60_exceptions.md sections 1
and 3). -/
def Obligations.TransformsNeedABasis : Prop :=
  (∀ i (s : State), s.basisM = 0 → needsBasis i = true → exec i s = .next (afterError s (encode i) 0x11 0 0)) ∧
  (∀ i (s t : State), needsBasis i = false → exec i s = .next t → s.errf = false → t.errf = true → t.err ≠ 0x11#8) ∧
  (∀ i (s t : State), s.basisM ≠ 0 → exec i s = .next t → s.errf = false → t.errf = true → t.err ≠ 0x11#8)

/-- What no command changes: the control bits, the access flags, the outside world, the parameters; and only `BASIS` changes the tables
(41_basis.md section 3, 20_memory.md section 1). -/
def Obligations.CommandsKeepControlAndTables : Prop :=
  ∀ i (s t : State), exec i s = .next t →
    t.width = s.width ∧ t.ieDone = s.ieDone ∧ t.ieErr = s.ieErr ∧ t.buserr = s.buserr ∧ t.cmddrop = s.cmddrop ∧
      t.inputs = s.inputs ∧ t.entropyDead = s.entropyDead ∧ t.rdata = s.rdata ∧ t.params = s.params ∧
      ((∀ a m, i ≠ .basis a m) → t.basisM = s.basisM ∧ t.basis = s.basis ∧ t.comb = s.comb ∧ t.sub = s.sub)

/-- No command's result depends on `DONE`, `BUSERR` or `CMDDROP` (10_state.md section 7): two runs that differ in them alone
end in states that differ in them alone. -/
def Obligations.StatusFlagsDoNotInfluence : Prop :=
  ∀ i (s t : State) x y z, exec i s = .next t →
    ∃ u, exec i { s with done := x, buserr := y, cmddrop := z } = .next u ∧
      t = { u with done := t.done, buserr := t.buserr, cmddrop := t.cmddrop }

/-! ## Field Kernel -/

/-- R130, R131, R132. -/
def Obligations.AddSubtractAndMove : Prop :=
  (∀ d a b : EReg, Assembles (.fadd d a b) 0x10 d.val a.val b.val 0 0 ∧
    ScalarResult (.fadd d a b) d fun s => reg s a ^^^ reg s b) ∧
  (∀ d a b : EReg, Assembles (.fsub d a b) 0x11 d.val a.val b.val 0 0 ∧
    ScalarResult (.fsub d a b) d fun s => reg s a ^^^ reg s b) ∧
  (∀ d a : EReg, Assembles (.fneg d a) 0x12 d.val a.val 0 0 0 ∧ ScalarResult (.fneg d a) d fun s => reg s a)

/-- FMUL, FMULN and FSQR all give the product of the reference multiplier (40_field_kernel.md section 2, by R122 and R123). -/
def Obligations.MultiplyAndSquare : Prop :=
  (∀ d a b : EReg, Assembles (.fmul d a b) 0x13 d.val a.val b.val 0 0 ∧
    ScalarResult (.fmul d a b) d fun s => s.field.mulNaive (reg s a) (reg s b)) ∧
  (∀ d a b : EReg, Assembles (.fmuln d a b) 0x14 d.val a.val b.val 0 0 ∧
    ScalarResult (.fmuln d a b) d fun s => s.field.mulNaive (reg s a) (reg s b)) ∧
  (∀ d a : EReg, Assembles (.fsqr d a) 0x15 d.val a.val 0 0 0 ∧
    ScalarResult (.fsqr d a) d fun s => s.field.mulNaive (reg s a) (reg s a))

/-- R123: the two-step multiplier agrees with the reference multiplier for every pair of elements, for any width and any
polynomial of that degree; the product is an element. -/
def Obligations.MultipliersAgree : Prop :=
  ∀ F, FieldOk F → ∀ a b, IsElem F.n a → IsElem F.n b →
    F.mul a b = F.mulNaive a b ∧ IsElem F.n (F.mul a b)

/-- R125 and R136: `FINV` gives the power `2^n - 2`; the power of 0 is 0, whatever the polynomials. -/
def Obligations.InverseIsThePower : Prop :=
  (∀ d a : EReg, Assembles (.finv d a) 0x16 d.val a.val 0 0 0 ∧
    ScalarResult (.finv d a) d fun s => power s.field (reg s a) (2 ^ s.width.bits - 2)) ∧
  ∀ (P : Params) (W : Width), (P.field W).inv 0#64 = 0#64

/-- `inv` inverts every nonzero element of a field whose polynomial is irreducible (40_field_kernel.md section 1; R6 asks
that of the parameters). -/
def Obligations.InverseInverts : Prop :=
  ∀ (P : Params) (W : Width), (P.field W).Irreducible → ∀ a, IsElem W.bits a → a ≠ 0#64 →
    (P.field W).mul a ((P.field W).inv a) = 1#64 ∧ IsElem W.bits ((P.field W).inv a)

/-- The laws of R128 that hold in every ring of this shape, for any width and any polynomial, and distributivity
(40_field_kernel.md section 1). -/
def Obligations.MultiplicationLaws : Prop :=
  ∀ F, FieldOk F → ∀ a b c, IsElem F.n a → IsElem F.n b → IsElem F.n c →
    F.mul a b = F.mul b a ∧ F.mul (F.mul a b) c = F.mul (F.mul a c) b ∧ F.mul a 0#64 = 0#64 ∧ F.mul a 1#64 = a ∧
      F.sqr a = F.mul a a ∧ F.mul a (b ^^^ c) = F.mul a b ^^^ F.mul a c

/-- R137 and R138: the two butterflies, their words, and that `d = a` is an illegal word. -/
def Obligations.ButterflyCommands : Prop :=
  (∀ d a b : EReg, d ≠ a → Assembles (.fbfly d a b) 0x17 d.val a.val b.val 0 0 ∧
    ∀ (s : State), ∃ t, exec (.fbfly d a b) s = .next t ∧ t.e[d] = reg s d ^^^ s.field.mulNaive (reg s b) (reg s a) ∧
      t.e[a] = reg s a ^^^ t.e[d] ∧ Completes [d, a] [] false s t ∧ SameDraws s t) ∧
  (∀ d a b : EReg, d ≠ a → Assembles (.fibfly d a b) 0x18 d.val a.val b.val 0 0 ∧
    ∀ (s : State), ∃ t, exec (.fibfly d a b) s = .next t ∧ t.e[a] = reg s a ^^^ reg s d ∧
      t.e[d] = reg s d ^^^ s.field.mulNaive (reg s b) t.e[a] ∧ Completes [d, a] [] false s t ∧ SameDraws s t) ∧
  (∀ d b : EReg, decode (wordOf 0x17 d.val d.val b.val 0 0) = .error .sameRegister ∧
    decode (wordOf 0x18 d.val d.val b.val 0 0) = .error .sameRegister)

/-- R127: each butterfly undoes the other, as functions, and `FIBFLY` after `FBFLY` restores the registers where the twiddle
register is a third one. -/
def Obligations.ButterfliesUndoEachOther : Prop :=
  (∀ (F : GF) k k2 g, F.ibfly (F.bfly k k2 g).1 (F.bfly k k2 g).2 g = (k, k2) ∧
    F.bfly (F.ibfly k k2 g).1 (F.ibfly k k2 g).2 g = (k, k2)) ∧
  (∀ (s : State) (d a b : EReg), d ≠ a → b ≠ d → b ≠ a → IsElem s.width.bits s.e[d] → IsElem s.width.bits s.e[a] →
    ∃ t u, exec (.fbfly d a b) s = .next t ∧ exec (.fibfly d a b) t = .next u ∧ u.e = s.e)

/-- FRAND (40_field_kernel.md section 2; U7 of 93_implementation_defined.md; log entry 2): the first pending word that is
nonzero in its low `n` bits, else some nonzero element, never 0; with a port that delivers zero for ever the command does not
complete. The value where no pending word answers is free: this says nothing of it but that it is a nonzero element. -/
def Obligations.RandomDrawIsNonzero : Prop :=
  (∀ d : EReg, Assembles (.frand d) 0x19 d.val 0 0 0 0) ∧
  (∀ (s : State) (d : EReg) (zs : List Word) w ws, s.entropy = zs ++ w :: ws → (∀ z ∈ zs, narrow s.width z = 0#64) → narrow s.width w ≠ 0#64 →
    ∃ t, exec (.frand d) s = .next t ∧ t.e[d] = narrow s.width w ∧ t.entropy = ws ∧ t.draws = s.draws ∧
      t.turns = s.turns ∧ Completes [d] [] false s t) ∧
  (∀ (s : State) (d : EReg), (∀ z ∈ s.entropy, narrow s.width z = 0#64) → s.entropyDead = false →
    ∃ t, exec (.frand d) s = .next t ∧ t.e[d] ≠ 0#64 ∧ IsElem s.width.bits t.e[d] ∧ t.entropy = [] ∧
      t.draws = s.draws + 1 ∧ t.turns = s.turns ∧ Completes [d] [] false s t) ∧
  (∀ (s : State) (d : EReg), (∀ z ∈ s.entropy, narrow s.width z = 0#64) → s.entropyDead = true →
    exec (.frand d) s = .next { s with entropy := [] })

/-! ## Basis Builder -/

/-- R152, with the tables of R150 to R154 entry by entry. -/
def Obligations.BasisCommandBuildsTables : Prop :=
  ∀ (a : EReg) (m : BitVec 32), Assembles (.basis a m) 0x20 0 a.val 0 0 m.toNat ∧
    Fails (.basis a m) (fun s => m.toNat < 1 ∨ min s.width.bits 16 < m.toNat) 0x12 0 (fun _ => m.toNat) ∧
    Fails (.basis a m) (fun s => 1 ≤ m.toNat ∧ m.toNat ≤ min s.width.bits 16 ∧
      towerAt s.field (reg s a) (s.width.bits - 1) ≠ 1#64) 0x01 0 (fun _ => 0) ∧
    (∀ (s : State), 1 ≤ m.toNat → m.toNat ≤ min s.width.bits 16 → towerAt s.field (reg s a) (s.width.bits - 1) = 1#64 →
      ∃ t, exec (.basis a m) s = .next t ∧ t.basisM = m.toNat ∧
        TablesAre s.field (reg s a) m.toNat t.basis t.comb t.sub ∧ Completes [] [] true s t ∧ SameDraws s t)

/-- What an active basis has (10_state.md sections 6 and 10, 41_basis.md section 1): the sizes of the tables, the last basis
element One, the first points 0 and 1, and that the evaluation points are pairwise distinct. The last is general knowledge in
the spec (R153). -/
def Obligations.ActiveBasisFacts : Prop :=
  ∀ (s : State), s.HasBasis →
    s.basis.length = s.basisM ∧ s.comb.length = 2 ^ s.basisM ∧ s.sub.length = 2 ^ (s.basisM - 1) ∧
      at' s.basis (s.basisM - 1) = 1#64 ∧ at' s.comb 0 = 0#64 ∧ at' s.comb 1 = 1#64 ∧ s.comb.Nodup ∧
      ∀ x y, x < 2 ^ s.basisM → y < 2 ^ s.basisM → at' s.comb (x ^^^ y) = at' s.comb x ^^^ at' s.comb y

/-! ## Radix Converter -/

/-- R162 and R163, the result by the loops of R160 and R161. -/
def Obligations.RadixCommands : Prop :=
  (∀ d : PReg, Assembles (.radix d) 0x30 d.val 0 0 0 0 ∧
    Fails (.radix d) (fun s => ∀ m, s.len d ≠ 2 ^ m) 0x02 1 (fun s => s.len d) ∧
    ∀ m, BufferResult (.radix d) d (fun s => s.len d = 2 ^ m) fun s => radixLoops m (s.buf d)) ∧
  (∀ d : PReg, Assembles (.iradix d) 0x31 d.val 0 0 0 0 ∧
    Fails (.iradix d) (fun s => ∀ m, s.len d ≠ 2 ^ m) 0x02 1 (fun s => s.len d) ∧
    ∀ m, BufferResult (.iradix d) d (fun s => s.len d = 2 ^ m) fun s => iradixLoops m (s.buf d))

/-- R164: the two conversions are inverse to each other on every list of `2^m` words. -/
def Obligations.RadixConversionsInvert : Prop :=
  ∀ m (p : List Word), p.length = 2 ^ m → iradix m (radix m p) = p ∧ radix m (iradix m p) = p

/-! ## FFT Engine -/

/-- R174, R175, R177, R178, the results by the loops of R171, R180 and R173. -/
def Obligations.SequentialTransforms : Prop :=
  ∀ d : PReg,
    (Assembles (.fft d) 0x40 d.val 0 0 0 0 ∧
      TransformRule (.fft d) d fun s => fftLoops s.field s.basisM s.sub (s.buf d)) ∧
    (Assembles (.ifft d) 0x41 d.val 0 0 0 0 ∧
      TransformRule (.ifft d) d fun s => ifftLoops s.field s.basisM s.sub (s.buf d)) ∧
    (Assembles (.fftl d) 0x42 d.val 0 0 0 0 ∧
      TransformRule (.fftl d) d fun s => fftlLoops s.field s.basisM s.sub (s.buf d)) ∧
    (Assembles (.ifftl d) 0x43 d.val 0 0 0 0 ∧
      TransformRule (.ifftl d) d fun s => ifftlLoops s.field s.basisM s.sub (s.buf d))

/-- R181, R182: whatever the interleaving of the two workers, the concurrent transforms give the words of the sequential
ones, with the same checks and errors. -/
def Obligations.ConcurrentTransformsAgree : Prop :=
  ∀ d : PReg,
    (Assembles (.fftp d) 0x44 d.val 0 0 0 0 ∧ Assembles (.ifftp d) 0x45 d.val 0 0 0 0) ∧
    (∀ i ∈ [Instr.fftp d, Instr.ifftp d],
      Fails i (fun s => s.basisM = 0) 0x11 0 (fun _ => 0) ∧
      Fails i (fun s => s.basisM ≠ 0 ∧ s.len d ≠ 2 ^ s.basisM) 0x02 2 (fun s => s.len d)) ∧
    (∀ (s : State), Fits s d → SubFits s →
      (∃ t, exec (.fftp d) s = .next t ∧ t.buf d = fftLoops s.field s.basisM s.sub (s.buf d) ∧
        Completes [] [d] false s t ∧ t.entropy = s.entropy ∧ t.draws = s.draws) ∧
      (∃ t, exec (.ifftp d) s = .next t ∧ t.buf d = ifftLoops s.field s.basisM s.sub (s.buf d) ∧
        Completes [] [d] false s t ∧ t.entropy = s.entropy ∧ t.draws = s.draws))

/-- R179: the transforms and their inverses undo each other, in either order, for any twiddle table. -/
def Obligations.TransformsInvert : Prop :=
  ∀ (F : GF) m (sub p : List Word), 1 ≤ m → p.length = 2 ^ m →
    ifft F m sub (fft F m sub p) = p ∧ fft F m sub (ifft F m sub p) = p ∧
      ifftl F m sub (fftl F m sub p) = p ∧ fftl F m sub (ifftl F m sub p) = p

/-- R176: under an active basis the forward transform is direct evaluation at every point of `COMB`. -/
def Obligations.TransformEvaluates : Prop :=
  ∀ (s : State) p, s.HasBasis → p.length = 2 ^ s.basisM → (∀ w ∈ p, IsElem s.field.n w) →
    fft s.field s.basisM s.sub p = fftNaive s.field s.basisM s.comb p

/-! ## Polynomial Engine -/

/-- R194, with its corner cases. -/
def Obligations.EvaluationCommand : Prop :=
  (∀ (d : EReg) (a : PReg) (b : EReg), Assembles (.eval d a b) 0x50 d.val a.val b.val 0 0 ∧
    ScalarResult (.eval d a b) d fun s => evalLoop s.field (s.buf a) (reg s b)) ∧
  (∀ F x, evalLoop F [] x = 0#64) ∧ (∀ F c cs, evalLoop F (c :: cs) 0#64 = c) ∧
  (∀ F p, FieldOk F → (∀ w ∈ p, IsElem F.n w) → evalLoop F p 1#64 = p.foldl (· ^^^ ·) 0#64)

/-- R196, the result by the loops of R195. -/
def Obligations.SchoolbookProductCommand : Prop :=
  ∀ d a b : PReg, Assembles (.pmuln d a b) 0x51 d.val a.val b.val 0 0 ∧
    Fails (.pmuln d a b) (fun s => s.len a ≠ 0 ∧ s.len b ≠ 0 ∧ 65536 < s.len a + s.len b - 1) 0x13 0
      (fun s => s.len a + s.len b - 1) ∧
    BufferResult (.pmuln d a b) d (fun s => s.len a = 0 ∨ s.len b = 0) (fun _ => []) ∧
    BufferResult (.pmuln d a b) d (fun s => s.len a ≠ 0 ∧ s.len b ≠ 0 ∧ s.len a + s.len b - 1 ≤ 65536)
      (fun s => convLoops s.field (s.buf a) (s.buf b)) ∧
    ∀ F (p q : List Word), p ≠ [] → q ≠ [] → (convLoops F p q).length = p.length + q.length - 1

/-- R198 and R206: the elementwise product with its check, and the substitution coefficient by coefficient. -/
def Obligations.ElementwiseProductAndSubstitution : Prop :=
  (∀ d a b : PReg, Assembles (.muls d a b) 0x53 d.val a.val b.val 0 0 ∧
    Fails (.muls d a b) (fun s => s.len a ≠ s.len b) 0x03 0 (fun s => s.len b) ∧
    BufferResult (.muls d a b) d (fun s => s.len a = s.len b) fun s => product s.field (s.buf a) (s.buf b)) ∧
  (∀ (d : PReg) (a : EReg), Assembles (.subst d a) 0x54 d.val a.val 0 0 0 ∧
    BufferResult (.subst d a) d (fun _ => True) fun s => scale s.field (s.buf d) (reg s a))

/-- R209: the batch inverter with its single inversion is the elementwise inverse, zeros staying zero, for any irreducible
polynomial (R6); `INVS` writes it. -/
def Obligations.BatchInversionIsElementwise : Prop :=
  (∀ d : PReg, Assembles (.invs d) 0x55 d.val 0 0 0 0 ∧
    BufferResult (.invs d) d (fun s => s.field.Irreducible ∧ s.BufElems d) fun s => (s.buf d).map s.field.inv) ∧
  (∀ (P : Params) (W : Width) (p : List Word), (P.field W).Irreducible → (∀ w ∈ p, IsElem W.bits w) →
    invSample (P.field W) p = p.map (P.field W).inv ∧ invSample (P.field W) (invSample (P.field W) p) = p ∧
      (∀ i, i < p.length → at' p i ≠ 0#64 → (P.field W).mul (at' p i) (at' (invSample (P.field W) p) i) = 1#64) ∧
      (∀ i, at' p i = 0#64 → at' (invSample (P.field W) p) i = 0#64))

/-- R201: the four checks in order, and the result by the steps of R199. -/
def Obligations.TransformProductCommand : Prop :=
  ∀ d a b : PReg, Assembles (.pmul d a b) 0x52 d.val a.val b.val 0 0 ∧
    Fails (.pmul d a b) (fun s => s.basisM = 0) 0x11 0 (fun _ => 0) ∧
    Fails (.pmul d a b) (fun s => s.basisM ≠ 0 ∧ 2 ^ s.basisM < s.len a) 0x02 3 (fun s => s.len a) ∧
    Fails (.pmul d a b) (fun s => s.basisM ≠ 0 ∧ s.len a ≤ 2 ^ s.basisM ∧ 2 ^ s.basisM < s.len b) 0x02 3
      (fun s => s.len b) ∧
    ∀ da db : Int,
      Fails (.pmul d a b) (fun s => s.basisM ≠ 0 ∧ s.len a ≤ 2 ^ s.basisM ∧ s.len b ≤ 2 ^ s.basisM ∧
        IsDegree (s.buf a) da ∧ IsDegree (s.buf b) db ∧ (2 ^ s.basisM : Int) < da + db + 1) 0x02 4
        (fun _ => (da + db + 1).toNat) ∧
      BufferResult (.pmul d a b) d (fun s => s.basisM ≠ 0 ∧ SubFits s ∧ s.len a ≤ 2 ^ s.basisM ∧
        s.len b ≤ 2 ^ s.basisM ∧ IsDegree (s.buf a) da ∧ IsDegree (s.buf b) db ∧ da + db + 1 ≤ (2 ^ s.basisM : Int))
        (fun s => pmulLoops s.field s.basisM s.sub (s.buf a) (s.buf b))

/-- R200: where the degrees fit the domain, the transform product is the schoolbook product of the trimmed operands. -/
def Obligations.TransformProductIsTheProduct : Prop :=
  ∀ (s : State) p q p' q', s.HasBasis → (∀ w ∈ p, IsElem s.field.n w) → (∀ w ∈ q, IsElem s.field.n w) →
    p.length ≤ 2 ^ s.basisM → q.length ≤ 2 ^ s.basisM → IsTrim p p' → IsTrim q q' →
    p'.length + q'.length ≤ 2 ^ s.basisM + 1 →
    pmul s.field s.basisM s.sub p q = pad (convLoops s.field p' q') (2 ^ s.basisM)

/-- R211: the checks in order, and the result by the steps of R210, with the divisor's samples inverted one by one; a zero
divisor gives zeros. The results hold for any irreducible polynomial (R6). -/
def Obligations.PerfectDivisionCommand : Prop :=
  ∀ d a b : PReg, Assembles (.pdiv d a b) 0x56 d.val a.val b.val 0 0 ∧
    Fails (.pdiv d a b) (fun s => s.basisM = 0) 0x11 0 (fun _ => 0) ∧
    Fails (.pdiv d a b) (fun s => s.basisM ≠ 0 ∧ 2 ^ s.basisM < s.len a) 0x02 3 (fun s => s.len a) ∧
    Fails (.pdiv d a b) (fun s => s.basisM ≠ 0 ∧ s.len a ≤ 2 ^ s.basisM ∧ 2 ^ s.basisM < s.len b) 0x02 3
      (fun s => s.len b) ∧
    BufferResult (.pdiv d a b) d (fun s => s.field.Irreducible ∧ s.HasBasis ∧ s.BufElems b ∧ s.len a ≤ 2 ^ s.basisM ∧ s.len b ≤ 2 ^ s.basisM)
      (fun s => pdivLoops s.field s.basisM s.sub (s.buf a) (s.buf b)) ∧
    BufferResult (.pdiv d a b) d (fun s => s.HasBasis ∧ s.len a ≤ 2 ^ s.basisM ∧ s.len b ≤ 2 ^ s.basisM ∧
      ∀ w ∈ s.buf b, w = 0#64) (fun s => List.replicate (2 ^ s.basisM) 0#64)

/-- The quotient comes out where the divisor divides exactly and has no root among the domain points, for any irreducible
polynomial (44_poly.md section 8, R6). -/
def Obligations.PerfectDivisionGivesTheQuotient : Prop :=
  ∀ (s : State) q c, s.field.Irreducible → s.HasBasis → (∀ w ∈ q, IsElem s.field.n w) → (∀ w ∈ c, IsElem s.field.n w) → q ≠ [] →
    q.length ≤ 2 ^ s.basisM → (convLoops s.field c q).length ≤ 2 ^ s.basisM →
    (∀ t, t < 2 ^ s.basisM → evalLoop s.field q (at' s.comb t) ≠ 0#64) →
    pdiv s.field s.basisM s.sub (convLoops s.field c q) q = pad c (2 ^ s.basisM)

/-- R212 and R213: the checks in order, the product of the linear factors, its length and leading coefficient, and that every
root is a root. -/
def Obligations.VanishingPolynomialCommand : Prop :=
  (∀ d a : PReg, Assembles (.zpoly d a) 0x57 d.val a.val 0 0 0 ∧
    Fails (.zpoly d a) (fun s => s.basisM = 0) 0x11 0 (fun _ => 0) ∧
    Fails (.zpoly d a) (fun s => s.basisM ≠ 0 ∧ (s.len a = 0 ∨ s.len a % 2 = 1)) 0x14 0 (fun s => s.len a) ∧
    Fails (.zpoly d a) (fun s => s.basisM ≠ 0 ∧ s.len a ≠ 0 ∧ s.len a % 2 = 0 ∧ 2 ^ s.basisM < s.len a + 1) 0x02 4
      (fun s => s.len a + 1) ∧
    BufferResult (.zpoly d a) d
      (fun s => s.basisM ≠ 0 ∧ s.len a ≠ 0 ∧ s.len a % 2 = 0 ∧ s.len a + 1 ≤ 2 ^ s.basisM)
      (fun s => rootProduct s.field (s.buf a))) ∧
  (∀ F roots, FieldOk F → (∀ x ∈ roots, IsElem F.n x) →
    (rootProduct F roots).length = roots.length + 1 ∧ at' (rootProduct F roots) roots.length = 1#64 ∧
      ∀ x ∈ roots, evalLoop F (rootProduct F roots) x = 0#64)

/-! ## Erasure Coder -/

/-- R221 and R222. -/
def Obligations.EncodeCommand : Prop :=
  ∀ (d a : PReg) (factor : BitVec 32), Assembles (.encode d a factor) 0x60 d.val a.val 0 0 factor.toNat ∧
    Fails (.encode d a factor) (fun s => s.basisM = 0) 0x11 0 (fun _ => 0) ∧
    Fails (.encode d a factor) (fun s => s.basisM ≠ 0 ∧ s.len a * factor.toNat ≠ 2 ^ s.basisM) 0x02 5
      (fun s => s.len a * factor.toNat) ∧
    BufferResult (.encode d a factor) d
      (fun s => s.basisM ≠ 0 ∧ s.len a * factor.toNat = 2 ^ s.basisM ∧ SubFits s)
      (fun s => fftLoops s.field s.basisM s.sub (pad (s.buf a) (2 ^ s.basisM)))

/-- R226: every check in order, and the result by the nine steps of R224, for any irreducible polynomial (R6). -/
def Obligations.RecoverCommand : Prop :=
  ∀ (d a b : PReg) (c : EReg) (dlen : BitVec 32),
    Assembles (.recover d a b c dlen) 0x61 d.val a.val b.val c.val dlen.toNat ∧
    Fails (.recover d a b c dlen) (fun s => s.basisM = 0) 0x11 0 (fun _ => 0) ∧
    Fails (.recover d a b c dlen) (fun s => s.basisM ≠ 0 ∧ s.len a ≠ 2 ^ s.basisM) 0x02 2 (fun s => s.len a) ∧
    Fails (.recover d a b c dlen) (fun s => s.basisM ≠ 0 ∧ s.len a = 2 ^ s.basisM ∧ (s.len b = 0 ∨ s.len b % 2 = 1))
      0x14 0 (fun s => s.len b) ∧
    Fails (.recover d a b c dlen) (fun s => s.basisM ≠ 0 ∧ s.len a = 2 ^ s.basisM ∧ s.len b ≠ 0 ∧ s.len b % 2 = 0 ∧
      2 ^ s.basisM < s.len b + 1) 0x02 4 (fun s => s.len b + 1) ∧
    Fails (.recover d a b c dlen) (fun s => s.basisM ≠ 0 ∧ s.len a = 2 ^ s.basisM ∧ s.len b ≠ 0 ∧ s.len b % 2 = 0 ∧
      s.len b + 1 ≤ 2 ^ s.basisM ∧ 2 ^ s.basisM < s.len b + dlen.toNat) 0x04 5 (fun s => s.len b) ∧
    (∀ t, Fails (.recover d a b c dlen) (fun s => RecoverLengths s a b dlen.toNat ∧ t < s.len b ∧
      (∀ u, u < t → SlotErased s a b u) ∧ 2 ^ s.basisM ≤ (at' (s.buf b) t).toNat) 0x04 1 (fun _ => t)) ∧
    (∀ t, Fails (.recover d a b c dlen) (fun s => RecoverLengths s a b dlen.toNat ∧ t < s.len b ∧
      (∀ u, u < t → SlotErased s a b u) ∧ (at' (s.buf b) t).toNat < 2 ^ s.basisM ∧
      at' (s.buf a) (at' (s.buf b) t).toNat ≠ 0#64) 0x04 2 (fun _ => t)) ∧
    Fails (.recover d a b c dlen) (fun s => RecoverLengths s a b dlen.toNat ∧
      (∀ u, u < s.len b → SlotErased s a b u) ∧ reg s c = 0#64) 0x04 4 (fun _ => 0) ∧
    (∀ q, Fails (.recover d a b c dlen) (fun s => RecoverLengths s a b dlen.toNat ∧ s.field.Irreducible ∧ s.HasBasis ∧
      (∀ u, u < s.len b → SlotErased s a b u) ∧ reg s c ≠ 0#64 ∧
      IsTrim (recoverQuotientLoops s.field s.basisM s.comb s.sub (s.buf a) (s.buf b) (reg s c)) q ∧
      dlen.toNat < q.length) 0x04 3 (fun _ => q.length)) ∧
    (∀ q, BufferResult (.recover d a b c dlen) d (fun s => RecoverLengths s a b dlen.toNat ∧ s.field.Irreducible ∧ s.HasBasis ∧
      (∀ u, u < s.len b → SlotErased s a b u) ∧ reg s c ≠ 0#64 ∧
      IsTrim (recoverQuotientLoops s.field s.basisM s.comb s.sub (s.buf a) (s.buf b) (reg s c)) q ∧
      q.length ≤ dlen.toNat) (fun s => pad (scale s.field q (s.field.inv (reg s c))) dlen.toNat))

/-- R232: on a codeword whose unlisted positions are right, RECOVER either writes the data or raises `E_RECON` 3; with a
scalar that is not bad (R229) it writes the data. It holds for any irreducible polynomial (R6). -/
def Obligations.RecoveryIsExactOrRefused : Prop :=
  ∀ (s : State) (d a b : PReg) (c : EReg) (dlen : BitVec 32) (data : List Word),
    s.field.Irreducible → s.HasBasis → RecoverLengths s a b dlen.toNat → (∀ u, u < s.len b → SlotErased s a b u) → reg s c ≠ 0#64 →
    data.length = dlen.toNat → (∀ w ∈ data, IsElem s.field.n w) →
    (∀ t, t < 2 ^ s.basisM → (∀ u, u < s.len b → (at' (s.buf b) u).toNat ≠ t) →
      at' (s.buf a) t = evalLoop s.field data (at' s.comb t)) →
    ((∃ t, exec (.recover d a b c dlen) s = .next t ∧ t.buf d = data ∧ Completes [] [d] false s t) ∨
      (∃ v, exec (.recover d a b c dlen) s = .next (afterError s (encode (.recover d a b c dlen)) 0x04 3 v))) ∧
    ((∀ u, u < s.len b → ∀ y ∈ s.comb, at' s.comb (at' (s.buf b) u).toNat ≠ s.field.mul (reg s c) y) →
      ∃ t, exec (.recover d a b c dlen) s = .next t ∧ t.buf d = data ∧ Completes [] [d] false s t)

/-! ## Buffer commands -/

/-- R240, R241, R242, R243. -/
def Obligations.BufferCommands : Prop :=
  (Assembles .nop 0x00 0 0 0 0 0 ∧
    ∀ (s : State), ∃ t, exec .nop s = .next t ∧ Completes [] [] false s t ∧ SameDraws s t) ∧
  (∀ (d : PReg) (len : BitVec 32), Assembles (.resize d len) 0x70 d.val 0 0 0 len.toNat ∧
    Fails (.resize d len) (fun _ => 65536 < len.toNat) 0x13 0 (fun _ => len.toNat) ∧
    (∀ (s : State), len.toNat ≤ 65536 → ∃ t, exec (.resize d len) s = .next t ∧ t.len d = len.toNat ∧
      (∀ i, i < len.toNat → at' (t.buf d) i = if i < s.len d then at' (s.buf d) i else 0#64) ∧
      Completes [] [d] false s t ∧ SameDraws s t)) ∧
  (∀ d : PReg, Assembles (.trim d) 0x71 d.val 0 0 0 0 ∧
    ∀ (s : State), ∃ t, exec (.trim d) s = .next t ∧ IsTrim (s.buf d) (t.buf d) ∧ (t.len d = 0 ∨ at' (t.buf d) (t.len d - 1) ≠ 0#64) ∧
      Completes [] [d] false s t ∧ SameDraws s t) ∧
  (∀ d a : PReg, Assembles (.copy d a) 0x72 d.val a.val 0 0 0 ∧
    BufferResult (.copy d a) d (fun _ => True) fun s => s.buf a)

/-! ## The invariant -/

/-- The invariant of R40 holds after reset. -/
def Obligations.ResetMeetsTheInvariant : Prop := State.reset.Inv

/-- R40: every step, of the host, the engine or the reset input, keeps the invariant (a) to (f), from every state that has
it. -/
def Obligations.StepKeepsTheInvariant : Prop := ∀ (s t : State), s.Inv → step s = .next t → t.Inv
end

