-- ==== Sys2Proof/Laws/State.lean ====
section
/-!
SUPPORT. One lemma per field per update of the state, true by unfolding, so that no later proof unfolds a record update.
-/

namespace Sys2Proof.Machine

variable (s : State)

/-! ## writeE -/

@[simp] theorem State.writeE_e (i : EReg) (v : Word) : (s.writeE i v).e = s.e.set i v := rfl
@[simp] theorem State.writeE_mem (i : EReg) (v : Word) : (s.writeE i v).mem = s.mem := rfl
@[simp] theorem State.writeE_basisM (i : EReg) (v : Word) : (s.writeE i v).basisM = s.basisM := rfl
@[simp] theorem State.writeE_basis (i : EReg) (v : Word) : (s.writeE i v).basis = s.basis := rfl
@[simp] theorem State.writeE_comb (i : EReg) (v : Word) : (s.writeE i v).comb = s.comb := rfl
@[simp] theorem State.writeE_sub (i : EReg) (v : Word) : (s.writeE i v).sub = s.sub := rfl
@[simp] theorem State.writeE_width (i : EReg) (v : Word) : (s.writeE i v).width = s.width := rfl
@[simp] theorem State.writeE_ieDone (i : EReg) (v : Word) : (s.writeE i v).ieDone = s.ieDone := rfl
@[simp] theorem State.writeE_ieErr (i : EReg) (v : Word) : (s.writeE i v).ieErr = s.ieErr := rfl
@[simp] theorem State.writeE_inflight (i : EReg) (v : Word) : (s.writeE i v).inflight = s.inflight := rfl
@[simp] theorem State.writeE_done (i : EReg) (v : Word) : (s.writeE i v).done = s.done := rfl
@[simp] theorem State.writeE_errf (i : EReg) (v : Word) : (s.writeE i v).errf = s.errf := rfl
@[simp] theorem State.writeE_buserr (i : EReg) (v : Word) : (s.writeE i v).buserr = s.buserr := rfl
@[simp] theorem State.writeE_cmddrop (i : EReg) (v : Word) : (s.writeE i v).cmddrop = s.cmddrop := rfl
@[simp] theorem State.writeE_err (i : EReg) (v : Word) : (s.writeE i v).err = s.err := rfl
@[simp] theorem State.writeE_errinfo (i : EReg) (v : Word) : (s.writeE i v).errinfo = s.errinfo := rfl
@[simp] theorem State.writeE_errcmd (i : EReg) (v : Word) : (s.writeE i v).errcmd = s.errcmd := rfl
@[simp] theorem State.writeE_inputs (i : EReg) (v : Word) : (s.writeE i v).inputs = s.inputs := rfl
@[simp] theorem State.writeE_entropy (i : EReg) (v : Word) : (s.writeE i v).entropy = s.entropy := rfl
@[simp] theorem State.writeE_entropyDead (i : EReg) (v : Word) : (s.writeE i v).entropyDead = s.entropyDead := rfl
@[simp] theorem State.writeE_draws (i : EReg) (v : Word) : (s.writeE i v).draws = s.draws := rfl
@[simp] theorem State.writeE_turns (i : EReg) (v : Word) : (s.writeE i v).turns = s.turns := rfl
@[simp] theorem State.writeE_rdata (i : EReg) (v : Word) : (s.writeE i v).rdata = s.rdata := rfl
@[simp] theorem State.writeE_params (i : EReg) (v : Word) : (s.writeE i v).params = s.params := rfl

/-! ## setBuf -/

@[simp] theorem State.setBuf_e (b : PReg) (p : List Word) : (s.setBuf b p).e = s.e := rfl
@[simp] theorem State.setBuf_mem (b : PReg) (p : List Word) : (s.setBuf b p).mem = s.mem.set b p := rfl
@[simp] theorem State.setBuf_basisM (b : PReg) (p : List Word) : (s.setBuf b p).basisM = s.basisM := rfl
@[simp] theorem State.setBuf_basis (b : PReg) (p : List Word) : (s.setBuf b p).basis = s.basis := rfl
@[simp] theorem State.setBuf_comb (b : PReg) (p : List Word) : (s.setBuf b p).comb = s.comb := rfl
@[simp] theorem State.setBuf_sub (b : PReg) (p : List Word) : (s.setBuf b p).sub = s.sub := rfl
@[simp] theorem State.setBuf_width (b : PReg) (p : List Word) : (s.setBuf b p).width = s.width := rfl
@[simp] theorem State.setBuf_ieDone (b : PReg) (p : List Word) : (s.setBuf b p).ieDone = s.ieDone := rfl
@[simp] theorem State.setBuf_ieErr (b : PReg) (p : List Word) : (s.setBuf b p).ieErr = s.ieErr := rfl
@[simp] theorem State.setBuf_inflight (b : PReg) (p : List Word) : (s.setBuf b p).inflight = s.inflight := rfl
@[simp] theorem State.setBuf_done (b : PReg) (p : List Word) : (s.setBuf b p).done = s.done := rfl
@[simp] theorem State.setBuf_errf (b : PReg) (p : List Word) : (s.setBuf b p).errf = s.errf := rfl
@[simp] theorem State.setBuf_buserr (b : PReg) (p : List Word) : (s.setBuf b p).buserr = s.buserr := rfl
@[simp] theorem State.setBuf_cmddrop (b : PReg) (p : List Word) : (s.setBuf b p).cmddrop = s.cmddrop := rfl
@[simp] theorem State.setBuf_err (b : PReg) (p : List Word) : (s.setBuf b p).err = s.err := rfl
@[simp] theorem State.setBuf_errinfo (b : PReg) (p : List Word) : (s.setBuf b p).errinfo = s.errinfo := rfl
@[simp] theorem State.setBuf_errcmd (b : PReg) (p : List Word) : (s.setBuf b p).errcmd = s.errcmd := rfl
@[simp] theorem State.setBuf_inputs (b : PReg) (p : List Word) : (s.setBuf b p).inputs = s.inputs := rfl
@[simp] theorem State.setBuf_entropy (b : PReg) (p : List Word) : (s.setBuf b p).entropy = s.entropy := rfl
@[simp] theorem State.setBuf_entropyDead (b : PReg) (p : List Word) : (s.setBuf b p).entropyDead = s.entropyDead := rfl
@[simp] theorem State.setBuf_draws (b : PReg) (p : List Word) : (s.setBuf b p).draws = s.draws := rfl
@[simp] theorem State.setBuf_turns (b : PReg) (p : List Word) : (s.setBuf b p).turns = s.turns := rfl
@[simp] theorem State.setBuf_rdata (b : PReg) (p : List Word) : (s.setBuf b p).rdata = s.rdata := rfl
@[simp] theorem State.setBuf_params (b : PReg) (p : List Word) : (s.setBuf b p).params = s.params := rfl

/-! ## setBasis -/

@[simp] theorem State.setBasis_e (m : Nat) (bs cs ss : List Word) : (s.setBasis m bs cs ss).e = s.e := rfl
@[simp] theorem State.setBasis_mem (m : Nat) (bs cs ss : List Word) : (s.setBasis m bs cs ss).mem = s.mem := rfl
@[simp] theorem State.setBasis_basisM (m : Nat) (bs cs ss : List Word) : (s.setBasis m bs cs ss).basisM = m := rfl
@[simp] theorem State.setBasis_basis (m : Nat) (bs cs ss : List Word) : (s.setBasis m bs cs ss).basis = bs := rfl
@[simp] theorem State.setBasis_comb (m : Nat) (bs cs ss : List Word) : (s.setBasis m bs cs ss).comb = cs := rfl
@[simp] theorem State.setBasis_sub (m : Nat) (bs cs ss : List Word) : (s.setBasis m bs cs ss).sub = ss := rfl
@[simp] theorem State.setBasis_width (m : Nat) (bs cs ss : List Word) : (s.setBasis m bs cs ss).width = s.width := rfl
@[simp] theorem State.setBasis_ieDone (m : Nat) (bs cs ss : List Word) : (s.setBasis m bs cs ss).ieDone = s.ieDone := rfl
@[simp] theorem State.setBasis_ieErr (m : Nat) (bs cs ss : List Word) : (s.setBasis m bs cs ss).ieErr = s.ieErr := rfl
@[simp] theorem State.setBasis_inflight (m : Nat) (bs cs ss : List Word) : (s.setBasis m bs cs ss).inflight = s.inflight := rfl
@[simp] theorem State.setBasis_done (m : Nat) (bs cs ss : List Word) : (s.setBasis m bs cs ss).done = s.done := rfl
@[simp] theorem State.setBasis_errf (m : Nat) (bs cs ss : List Word) : (s.setBasis m bs cs ss).errf = s.errf := rfl
@[simp] theorem State.setBasis_buserr (m : Nat) (bs cs ss : List Word) : (s.setBasis m bs cs ss).buserr = s.buserr := rfl
@[simp] theorem State.setBasis_cmddrop (m : Nat) (bs cs ss : List Word) : (s.setBasis m bs cs ss).cmddrop = s.cmddrop := rfl
@[simp] theorem State.setBasis_err (m : Nat) (bs cs ss : List Word) : (s.setBasis m bs cs ss).err = s.err := rfl
@[simp] theorem State.setBasis_errinfo (m : Nat) (bs cs ss : List Word) : (s.setBasis m bs cs ss).errinfo = s.errinfo := rfl
@[simp] theorem State.setBasis_errcmd (m : Nat) (bs cs ss : List Word) : (s.setBasis m bs cs ss).errcmd = s.errcmd := rfl
@[simp] theorem State.setBasis_inputs (m : Nat) (bs cs ss : List Word) : (s.setBasis m bs cs ss).inputs = s.inputs := rfl
@[simp] theorem State.setBasis_entropy (m : Nat) (bs cs ss : List Word) : (s.setBasis m bs cs ss).entropy = s.entropy := rfl
@[simp] theorem State.setBasis_entropyDead (m : Nat) (bs cs ss : List Word) : (s.setBasis m bs cs ss).entropyDead = s.entropyDead := rfl
@[simp] theorem State.setBasis_draws (m : Nat) (bs cs ss : List Word) : (s.setBasis m bs cs ss).draws = s.draws := rfl
@[simp] theorem State.setBasis_turns (m : Nat) (bs cs ss : List Word) : (s.setBasis m bs cs ss).turns = s.turns := rfl
@[simp] theorem State.setBasis_rdata (m : Nat) (bs cs ss : List Word) : (s.setBasis m bs cs ss).rdata = s.rdata := rfl
@[simp] theorem State.setBasis_params (m : Nat) (bs cs ss : List Word) : (s.setBasis m bs cs ss).params = s.params := rfl

/-! ## setEntropy -/

@[simp] theorem State.setEntropy_e (ws : List Word) : (s.setEntropy ws).e = s.e := rfl
@[simp] theorem State.setEntropy_mem (ws : List Word) : (s.setEntropy ws).mem = s.mem := rfl
@[simp] theorem State.setEntropy_basisM (ws : List Word) : (s.setEntropy ws).basisM = s.basisM := rfl
@[simp] theorem State.setEntropy_basis (ws : List Word) : (s.setEntropy ws).basis = s.basis := rfl
@[simp] theorem State.setEntropy_comb (ws : List Word) : (s.setEntropy ws).comb = s.comb := rfl
@[simp] theorem State.setEntropy_sub (ws : List Word) : (s.setEntropy ws).sub = s.sub := rfl
@[simp] theorem State.setEntropy_width (ws : List Word) : (s.setEntropy ws).width = s.width := rfl
@[simp] theorem State.setEntropy_ieDone (ws : List Word) : (s.setEntropy ws).ieDone = s.ieDone := rfl
@[simp] theorem State.setEntropy_ieErr (ws : List Word) : (s.setEntropy ws).ieErr = s.ieErr := rfl
@[simp] theorem State.setEntropy_inflight (ws : List Word) : (s.setEntropy ws).inflight = s.inflight := rfl
@[simp] theorem State.setEntropy_done (ws : List Word) : (s.setEntropy ws).done = s.done := rfl
@[simp] theorem State.setEntropy_errf (ws : List Word) : (s.setEntropy ws).errf = s.errf := rfl
@[simp] theorem State.setEntropy_buserr (ws : List Word) : (s.setEntropy ws).buserr = s.buserr := rfl
@[simp] theorem State.setEntropy_cmddrop (ws : List Word) : (s.setEntropy ws).cmddrop = s.cmddrop := rfl
@[simp] theorem State.setEntropy_err (ws : List Word) : (s.setEntropy ws).err = s.err := rfl
@[simp] theorem State.setEntropy_errinfo (ws : List Word) : (s.setEntropy ws).errinfo = s.errinfo := rfl
@[simp] theorem State.setEntropy_errcmd (ws : List Word) : (s.setEntropy ws).errcmd = s.errcmd := rfl
@[simp] theorem State.setEntropy_inputs (ws : List Word) : (s.setEntropy ws).inputs = s.inputs := rfl
@[simp] theorem State.setEntropy_entropy (ws : List Word) : (s.setEntropy ws).entropy = ws := rfl
@[simp] theorem State.setEntropy_entropyDead (ws : List Word) : (s.setEntropy ws).entropyDead = s.entropyDead := rfl
@[simp] theorem State.setEntropy_draws (ws : List Word) : (s.setEntropy ws).draws = s.draws := rfl
@[simp] theorem State.setEntropy_turns (ws : List Word) : (s.setEntropy ws).turns = s.turns := rfl
@[simp] theorem State.setEntropy_rdata (ws : List Word) : (s.setEntropy ws).rdata = s.rdata := rfl
@[simp] theorem State.setEntropy_params (ws : List Word) : (s.setEntropy ws).params = s.params := rfl

/-! ## nextDraw -/

@[simp] theorem State.nextDraw_e : (s.nextDraw).e = s.e := rfl
@[simp] theorem State.nextDraw_mem : (s.nextDraw).mem = s.mem := rfl
@[simp] theorem State.nextDraw_basisM : (s.nextDraw).basisM = s.basisM := rfl
@[simp] theorem State.nextDraw_basis : (s.nextDraw).basis = s.basis := rfl
@[simp] theorem State.nextDraw_comb : (s.nextDraw).comb = s.comb := rfl
@[simp] theorem State.nextDraw_sub : (s.nextDraw).sub = s.sub := rfl
@[simp] theorem State.nextDraw_width : (s.nextDraw).width = s.width := rfl
@[simp] theorem State.nextDraw_ieDone : (s.nextDraw).ieDone = s.ieDone := rfl
@[simp] theorem State.nextDraw_ieErr : (s.nextDraw).ieErr = s.ieErr := rfl
@[simp] theorem State.nextDraw_inflight : (s.nextDraw).inflight = s.inflight := rfl
@[simp] theorem State.nextDraw_done : (s.nextDraw).done = s.done := rfl
@[simp] theorem State.nextDraw_errf : (s.nextDraw).errf = s.errf := rfl
@[simp] theorem State.nextDraw_buserr : (s.nextDraw).buserr = s.buserr := rfl
@[simp] theorem State.nextDraw_cmddrop : (s.nextDraw).cmddrop = s.cmddrop := rfl
@[simp] theorem State.nextDraw_err : (s.nextDraw).err = s.err := rfl
@[simp] theorem State.nextDraw_errinfo : (s.nextDraw).errinfo = s.errinfo := rfl
@[simp] theorem State.nextDraw_errcmd : (s.nextDraw).errcmd = s.errcmd := rfl
@[simp] theorem State.nextDraw_inputs : (s.nextDraw).inputs = s.inputs := rfl
@[simp] theorem State.nextDraw_entropy : (s.nextDraw).entropy = s.entropy := rfl
@[simp] theorem State.nextDraw_entropyDead : (s.nextDraw).entropyDead = s.entropyDead := rfl
@[simp] theorem State.nextDraw_draws : (s.nextDraw).draws = s.draws + 1 := rfl
@[simp] theorem State.nextDraw_turns : (s.nextDraw).turns = s.turns := rfl
@[simp] theorem State.nextDraw_rdata : (s.nextDraw).rdata = s.rdata := rfl
@[simp] theorem State.nextDraw_params : (s.nextDraw).params = s.params := rfl

/-! ## setTurns -/

@[simp] theorem State.setTurns_e (ts : List Worker) : (s.setTurns ts).e = s.e := rfl
@[simp] theorem State.setTurns_mem (ts : List Worker) : (s.setTurns ts).mem = s.mem := rfl
@[simp] theorem State.setTurns_basisM (ts : List Worker) : (s.setTurns ts).basisM = s.basisM := rfl
@[simp] theorem State.setTurns_basis (ts : List Worker) : (s.setTurns ts).basis = s.basis := rfl
@[simp] theorem State.setTurns_comb (ts : List Worker) : (s.setTurns ts).comb = s.comb := rfl
@[simp] theorem State.setTurns_sub (ts : List Worker) : (s.setTurns ts).sub = s.sub := rfl
@[simp] theorem State.setTurns_width (ts : List Worker) : (s.setTurns ts).width = s.width := rfl
@[simp] theorem State.setTurns_ieDone (ts : List Worker) : (s.setTurns ts).ieDone = s.ieDone := rfl
@[simp] theorem State.setTurns_ieErr (ts : List Worker) : (s.setTurns ts).ieErr = s.ieErr := rfl
@[simp] theorem State.setTurns_inflight (ts : List Worker) : (s.setTurns ts).inflight = s.inflight := rfl
@[simp] theorem State.setTurns_done (ts : List Worker) : (s.setTurns ts).done = s.done := rfl
@[simp] theorem State.setTurns_errf (ts : List Worker) : (s.setTurns ts).errf = s.errf := rfl
@[simp] theorem State.setTurns_buserr (ts : List Worker) : (s.setTurns ts).buserr = s.buserr := rfl
@[simp] theorem State.setTurns_cmddrop (ts : List Worker) : (s.setTurns ts).cmddrop = s.cmddrop := rfl
@[simp] theorem State.setTurns_err (ts : List Worker) : (s.setTurns ts).err = s.err := rfl
@[simp] theorem State.setTurns_errinfo (ts : List Worker) : (s.setTurns ts).errinfo = s.errinfo := rfl
@[simp] theorem State.setTurns_errcmd (ts : List Worker) : (s.setTurns ts).errcmd = s.errcmd := rfl
@[simp] theorem State.setTurns_inputs (ts : List Worker) : (s.setTurns ts).inputs = s.inputs := rfl
@[simp] theorem State.setTurns_entropy (ts : List Worker) : (s.setTurns ts).entropy = s.entropy := rfl
@[simp] theorem State.setTurns_entropyDead (ts : List Worker) : (s.setTurns ts).entropyDead = s.entropyDead := rfl
@[simp] theorem State.setTurns_draws (ts : List Worker) : (s.setTurns ts).draws = s.draws := rfl
@[simp] theorem State.setTurns_turns (ts : List Worker) : (s.setTurns ts).turns = ts := rfl
@[simp] theorem State.setTurns_rdata (ts : List Worker) : (s.setTurns ts).rdata = s.rdata := rfl
@[simp] theorem State.setTurns_params (ts : List Worker) : (s.setTurns ts).params = s.params := rfl

/-! ## complete -/

@[simp] theorem State.complete_e : (s.complete).e = s.e := rfl
@[simp] theorem State.complete_mem : (s.complete).mem = s.mem := rfl
@[simp] theorem State.complete_basisM : (s.complete).basisM = s.basisM := rfl
@[simp] theorem State.complete_basis : (s.complete).basis = s.basis := rfl
@[simp] theorem State.complete_comb : (s.complete).comb = s.comb := rfl
@[simp] theorem State.complete_sub : (s.complete).sub = s.sub := rfl
@[simp] theorem State.complete_width : (s.complete).width = s.width := rfl
@[simp] theorem State.complete_ieDone : (s.complete).ieDone = s.ieDone := rfl
@[simp] theorem State.complete_ieErr : (s.complete).ieErr = s.ieErr := rfl
@[simp] theorem State.complete_inflight : (s.complete).inflight = none := rfl
@[simp] theorem State.complete_done : (s.complete).done = true := rfl
@[simp] theorem State.complete_errf : (s.complete).errf = s.errf := rfl
@[simp] theorem State.complete_buserr : (s.complete).buserr = s.buserr := rfl
@[simp] theorem State.complete_cmddrop : (s.complete).cmddrop = s.cmddrop := rfl
@[simp] theorem State.complete_err : (s.complete).err = s.err := rfl
@[simp] theorem State.complete_errinfo : (s.complete).errinfo = s.errinfo := rfl
@[simp] theorem State.complete_errcmd : (s.complete).errcmd = s.errcmd := rfl
@[simp] theorem State.complete_inputs : (s.complete).inputs = s.inputs := rfl
@[simp] theorem State.complete_entropy : (s.complete).entropy = s.entropy := rfl
@[simp] theorem State.complete_entropyDead : (s.complete).entropyDead = s.entropyDead := rfl
@[simp] theorem State.complete_draws : (s.complete).draws = s.draws := rfl
@[simp] theorem State.complete_turns : (s.complete).turns = s.turns := rfl
@[simp] theorem State.complete_rdata : (s.complete).rdata = s.rdata := rfl
@[simp] theorem State.complete_params : (s.complete).params = s.params := rfl

/-! ## fail -/

@[simp] theorem State.fail_e (w : Word) (k : ErrKind) (c : BitVec 8) (v : Nat) : (s.fail w k c v).e = s.e := rfl
@[simp] theorem State.fail_mem (w : Word) (k : ErrKind) (c : BitVec 8) (v : Nat) : (s.fail w k c v).mem = s.mem := rfl
@[simp] theorem State.fail_basisM (w : Word) (k : ErrKind) (c : BitVec 8) (v : Nat) : (s.fail w k c v).basisM = s.basisM := rfl
@[simp] theorem State.fail_basis (w : Word) (k : ErrKind) (c : BitVec 8) (v : Nat) : (s.fail w k c v).basis = s.basis := rfl
@[simp] theorem State.fail_comb (w : Word) (k : ErrKind) (c : BitVec 8) (v : Nat) : (s.fail w k c v).comb = s.comb := rfl
@[simp] theorem State.fail_sub (w : Word) (k : ErrKind) (c : BitVec 8) (v : Nat) : (s.fail w k c v).sub = s.sub := rfl
@[simp] theorem State.fail_width (w : Word) (k : ErrKind) (c : BitVec 8) (v : Nat) : (s.fail w k c v).width = s.width := rfl
@[simp] theorem State.fail_ieDone (w : Word) (k : ErrKind) (c : BitVec 8) (v : Nat) : (s.fail w k c v).ieDone = s.ieDone := rfl
@[simp] theorem State.fail_ieErr (w : Word) (k : ErrKind) (c : BitVec 8) (v : Nat) : (s.fail w k c v).ieErr = s.ieErr := rfl
@[simp] theorem State.fail_inflight (w : Word) (k : ErrKind) (c : BitVec 8) (v : Nat) : (s.fail w k c v).inflight = none := rfl
@[simp] theorem State.fail_done (w : Word) (k : ErrKind) (c : BitVec 8) (v : Nat) : (s.fail w k c v).done = true := rfl
@[simp] theorem State.fail_errf (w : Word) (k : ErrKind) (c : BitVec 8) (v : Nat) : (s.fail w k c v).errf = true := rfl
@[simp] theorem State.fail_buserr (w : Word) (k : ErrKind) (c : BitVec 8) (v : Nat) : (s.fail w k c v).buserr = s.buserr := rfl
@[simp] theorem State.fail_cmddrop (w : Word) (k : ErrKind) (c : BitVec 8) (v : Nat) : (s.fail w k c v).cmddrop = s.cmddrop := rfl
@[simp] theorem State.fail_err (w : Word) (k : ErrKind) (c : BitVec 8) (v : Nat) : (s.fail w k c v).err = k.code := rfl
@[simp] theorem State.fail_errinfo (w : Word) (k : ErrKind) (c : BitVec 8) (v : Nat) : (s.fail w k c v).errinfo = errinfoWord c v := rfl
@[simp] theorem State.fail_errcmd (w : Word) (k : ErrKind) (c : BitVec 8) (v : Nat) : (s.fail w k c v).errcmd = w := rfl
@[simp] theorem State.fail_inputs (w : Word) (k : ErrKind) (c : BitVec 8) (v : Nat) : (s.fail w k c v).inputs = s.inputs := rfl
@[simp] theorem State.fail_entropy (w : Word) (k : ErrKind) (c : BitVec 8) (v : Nat) : (s.fail w k c v).entropy = s.entropy := rfl
@[simp] theorem State.fail_entropyDead (w : Word) (k : ErrKind) (c : BitVec 8) (v : Nat) : (s.fail w k c v).entropyDead = s.entropyDead := rfl
@[simp] theorem State.fail_draws (w : Word) (k : ErrKind) (c : BitVec 8) (v : Nat) : (s.fail w k c v).draws = s.draws := rfl
@[simp] theorem State.fail_turns (w : Word) (k : ErrKind) (c : BitVec 8) (v : Nat) : (s.fail w k c v).turns = s.turns := rfl
@[simp] theorem State.fail_rdata (w : Word) (k : ErrKind) (c : BitVec 8) (v : Nat) : (s.fail w k c v).rdata = s.rdata := rfl
@[simp] theorem State.fail_params (w : Word) (k : ErrKind) (c : BitVec 8) (v : Nat) : (s.fail w k c v).params = s.params := rfl

/-! ## clearError -/

@[simp] theorem State.clearError_e : (s.clearError).e = s.e := rfl
@[simp] theorem State.clearError_mem : (s.clearError).mem = s.mem := rfl
@[simp] theorem State.clearError_basisM : (s.clearError).basisM = s.basisM := rfl
@[simp] theorem State.clearError_basis : (s.clearError).basis = s.basis := rfl
@[simp] theorem State.clearError_comb : (s.clearError).comb = s.comb := rfl
@[simp] theorem State.clearError_sub : (s.clearError).sub = s.sub := rfl
@[simp] theorem State.clearError_width : (s.clearError).width = s.width := rfl
@[simp] theorem State.clearError_ieDone : (s.clearError).ieDone = s.ieDone := rfl
@[simp] theorem State.clearError_ieErr : (s.clearError).ieErr = s.ieErr := rfl
@[simp] theorem State.clearError_inflight : (s.clearError).inflight = s.inflight := rfl
@[simp] theorem State.clearError_done : (s.clearError).done = s.done := rfl
@[simp] theorem State.clearError_errf : (s.clearError).errf = false := rfl
@[simp] theorem State.clearError_buserr : (s.clearError).buserr = s.buserr := rfl
@[simp] theorem State.clearError_cmddrop : (s.clearError).cmddrop = s.cmddrop := rfl
@[simp] theorem State.clearError_err : (s.clearError).err = 0#8 := rfl
@[simp] theorem State.clearError_errinfo : (s.clearError).errinfo = 0#64 := rfl
@[simp] theorem State.clearError_errcmd : (s.clearError).errcmd = 0#64 := rfl
@[simp] theorem State.clearError_inputs : (s.clearError).inputs = s.inputs := rfl
@[simp] theorem State.clearError_entropy : (s.clearError).entropy = s.entropy := rfl
@[simp] theorem State.clearError_entropyDead : (s.clearError).entropyDead = s.entropyDead := rfl
@[simp] theorem State.clearError_draws : (s.clearError).draws = s.draws := rfl
@[simp] theorem State.clearError_turns : (s.clearError).turns = s.turns := rfl
@[simp] theorem State.clearError_rdata : (s.clearError).rdata = s.rdata := rfl
@[simp] theorem State.clearError_params : (s.clearError).params = s.params := rfl

/-! ## refuse -/

@[simp] theorem State.refuse_e : (s.refuse).e = s.e := rfl
@[simp] theorem State.refuse_mem : (s.refuse).mem = s.mem := rfl
@[simp] theorem State.refuse_basisM : (s.refuse).basisM = s.basisM := rfl
@[simp] theorem State.refuse_basis : (s.refuse).basis = s.basis := rfl
@[simp] theorem State.refuse_comb : (s.refuse).comb = s.comb := rfl
@[simp] theorem State.refuse_sub : (s.refuse).sub = s.sub := rfl
@[simp] theorem State.refuse_width : (s.refuse).width = s.width := rfl
@[simp] theorem State.refuse_ieDone : (s.refuse).ieDone = s.ieDone := rfl
@[simp] theorem State.refuse_ieErr : (s.refuse).ieErr = s.ieErr := rfl
@[simp] theorem State.refuse_inflight : (s.refuse).inflight = s.inflight := rfl
@[simp] theorem State.refuse_done : (s.refuse).done = s.done := rfl
@[simp] theorem State.refuse_errf : (s.refuse).errf = s.errf := rfl
@[simp] theorem State.refuse_buserr : (s.refuse).buserr = true := rfl
@[simp] theorem State.refuse_cmddrop : (s.refuse).cmddrop = s.cmddrop := rfl
@[simp] theorem State.refuse_err : (s.refuse).err = s.err := rfl
@[simp] theorem State.refuse_errinfo : (s.refuse).errinfo = s.errinfo := rfl
@[simp] theorem State.refuse_errcmd : (s.refuse).errcmd = s.errcmd := rfl
@[simp] theorem State.refuse_inputs : (s.refuse).inputs = s.inputs := rfl
@[simp] theorem State.refuse_entropy : (s.refuse).entropy = s.entropy := rfl
@[simp] theorem State.refuse_entropyDead : (s.refuse).entropyDead = s.entropyDead := rfl
@[simp] theorem State.refuse_draws : (s.refuse).draws = s.draws := rfl
@[simp] theorem State.refuse_turns : (s.refuse).turns = s.turns := rfl
@[simp] theorem State.refuse_rdata : (s.refuse).rdata = s.rdata := rfl
@[simp] theorem State.refuse_params : (s.refuse).params = s.params := rfl

/-! ## setInputs -/

@[simp] theorem State.setInputs_e (l : List Input) : (s.setInputs l).e = s.e := rfl
@[simp] theorem State.setInputs_mem (l : List Input) : (s.setInputs l).mem = s.mem := rfl
@[simp] theorem State.setInputs_basisM (l : List Input) : (s.setInputs l).basisM = s.basisM := rfl
@[simp] theorem State.setInputs_basis (l : List Input) : (s.setInputs l).basis = s.basis := rfl
@[simp] theorem State.setInputs_comb (l : List Input) : (s.setInputs l).comb = s.comb := rfl
@[simp] theorem State.setInputs_sub (l : List Input) : (s.setInputs l).sub = s.sub := rfl
@[simp] theorem State.setInputs_width (l : List Input) : (s.setInputs l).width = s.width := rfl
@[simp] theorem State.setInputs_ieDone (l : List Input) : (s.setInputs l).ieDone = s.ieDone := rfl
@[simp] theorem State.setInputs_ieErr (l : List Input) : (s.setInputs l).ieErr = s.ieErr := rfl
@[simp] theorem State.setInputs_inflight (l : List Input) : (s.setInputs l).inflight = s.inflight := rfl
@[simp] theorem State.setInputs_done (l : List Input) : (s.setInputs l).done = s.done := rfl
@[simp] theorem State.setInputs_errf (l : List Input) : (s.setInputs l).errf = s.errf := rfl
@[simp] theorem State.setInputs_buserr (l : List Input) : (s.setInputs l).buserr = s.buserr := rfl
@[simp] theorem State.setInputs_cmddrop (l : List Input) : (s.setInputs l).cmddrop = s.cmddrop := rfl
@[simp] theorem State.setInputs_err (l : List Input) : (s.setInputs l).err = s.err := rfl
@[simp] theorem State.setInputs_errinfo (l : List Input) : (s.setInputs l).errinfo = s.errinfo := rfl
@[simp] theorem State.setInputs_errcmd (l : List Input) : (s.setInputs l).errcmd = s.errcmd := rfl
@[simp] theorem State.setInputs_inputs (l : List Input) : (s.setInputs l).inputs = l := rfl
@[simp] theorem State.setInputs_entropy (l : List Input) : (s.setInputs l).entropy = s.entropy := rfl
@[simp] theorem State.setInputs_entropyDead (l : List Input) : (s.setInputs l).entropyDead = s.entropyDead := rfl
@[simp] theorem State.setInputs_draws (l : List Input) : (s.setInputs l).draws = s.draws := rfl
@[simp] theorem State.setInputs_turns (l : List Input) : (s.setInputs l).turns = s.turns := rfl
@[simp] theorem State.setInputs_rdata (l : List Input) : (s.setInputs l).rdata = s.rdata := rfl
@[simp] theorem State.setInputs_params (l : List Input) : (s.setInputs l).params = s.params := rfl

/-! ## clearElements -/

@[simp] theorem State.clearElements_e : (s.clearElements).e = Vector.replicate 16 0#64 := rfl
@[simp] theorem State.clearElements_mem : (s.clearElements).mem = Vector.replicate 8 [] := rfl
@[simp] theorem State.clearElements_basisM : (s.clearElements).basisM = 0 := rfl
@[simp] theorem State.clearElements_basis : (s.clearElements).basis = [] := rfl
@[simp] theorem State.clearElements_comb : (s.clearElements).comb = [] := rfl
@[simp] theorem State.clearElements_sub : (s.clearElements).sub = [] := rfl
@[simp] theorem State.clearElements_width : (s.clearElements).width = s.width := rfl
@[simp] theorem State.clearElements_ieDone : (s.clearElements).ieDone = s.ieDone := rfl
@[simp] theorem State.clearElements_ieErr : (s.clearElements).ieErr = s.ieErr := rfl
@[simp] theorem State.clearElements_inflight : (s.clearElements).inflight = s.inflight := rfl
@[simp] theorem State.clearElements_done : (s.clearElements).done = s.done := rfl
@[simp] theorem State.clearElements_errf : (s.clearElements).errf = s.errf := rfl
@[simp] theorem State.clearElements_buserr : (s.clearElements).buserr = s.buserr := rfl
@[simp] theorem State.clearElements_cmddrop : (s.clearElements).cmddrop = s.cmddrop := rfl
@[simp] theorem State.clearElements_err : (s.clearElements).err = s.err := rfl
@[simp] theorem State.clearElements_errinfo : (s.clearElements).errinfo = s.errinfo := rfl
@[simp] theorem State.clearElements_errcmd : (s.clearElements).errcmd = s.errcmd := rfl
@[simp] theorem State.clearElements_inputs : (s.clearElements).inputs = s.inputs := rfl
@[simp] theorem State.clearElements_entropy : (s.clearElements).entropy = s.entropy := rfl
@[simp] theorem State.clearElements_entropyDead : (s.clearElements).entropyDead = s.entropyDead := rfl
@[simp] theorem State.clearElements_draws : (s.clearElements).draws = s.draws := rfl
@[simp] theorem State.clearElements_turns : (s.clearElements).turns = s.turns := rfl
@[simp] theorem State.clearElements_rdata : (s.clearElements).rdata = s.rdata := rfl
@[simp] theorem State.clearElements_params : (s.clearElements).params = s.params := rfl

/-! ## toReset -/

@[simp] theorem State.toReset_e : (s.toReset).e = Vector.replicate 16 0#64 := rfl
@[simp] theorem State.toReset_mem : (s.toReset).mem = Vector.replicate 8 [] := rfl
@[simp] theorem State.toReset_basisM : (s.toReset).basisM = 0 := rfl
@[simp] theorem State.toReset_basis : (s.toReset).basis = [] := rfl
@[simp] theorem State.toReset_comb : (s.toReset).comb = [] := rfl
@[simp] theorem State.toReset_sub : (s.toReset).sub = [] := rfl
@[simp] theorem State.toReset_width : (s.toReset).width = .gf16 := rfl
@[simp] theorem State.toReset_ieDone : (s.toReset).ieDone = false := rfl
@[simp] theorem State.toReset_ieErr : (s.toReset).ieErr = false := rfl
@[simp] theorem State.toReset_inflight : (s.toReset).inflight = none := rfl
@[simp] theorem State.toReset_done : (s.toReset).done = false := rfl
@[simp] theorem State.toReset_errf : (s.toReset).errf = false := rfl
@[simp] theorem State.toReset_buserr : (s.toReset).buserr = false := rfl
@[simp] theorem State.toReset_cmddrop : (s.toReset).cmddrop = false := rfl
@[simp] theorem State.toReset_err : (s.toReset).err = 0#8 := rfl
@[simp] theorem State.toReset_errinfo : (s.toReset).errinfo = 0#64 := rfl
@[simp] theorem State.toReset_errcmd : (s.toReset).errcmd = 0#64 := rfl
@[simp] theorem State.toReset_inputs : (s.toReset).inputs = s.inputs := rfl
@[simp] theorem State.toReset_entropy : (s.toReset).entropy = s.entropy := rfl
@[simp] theorem State.toReset_entropyDead : (s.toReset).entropyDead = s.entropyDead := rfl
@[simp] theorem State.toReset_draws : (s.toReset).draws = s.draws := rfl
@[simp] theorem State.toReset_turns : (s.toReset).turns = s.turns := rfl
@[simp] theorem State.toReset_rdata : (s.toReset).rdata = s.rdata := rfl
@[simp] theorem State.toReset_params : (s.toReset).params = s.params := rfl

end Sys2Proof.Machine
end

