-- ==== Sys2Proof/Laws/Field.lean ====
section
/-!
SUPPORT. What the field functions are without the evaluation order, and that a register read is an element of the field.
-/

namespace Sys2Proof.Machine

/-- `force` only fixes when its argument is computed. -/
@[simp] theorem force_eq {α : Type} (w : Word) (k : Word → α) : force w k = k w := by
  unfold force
  split
  · next h => rw [show w = 0#64 from BitVec.eq_of_toNat_eq (by simpa using h)]
  · next v h => rw [show v + 1 = w.toNat from h.symm, BitVec.ofNat_toNat, BitVec.setWidth_eq]

/-- The multiplier as R123 describes it: carry-less product, then reduction. -/
theorem GF.mul_eq (F : GF) (a b : Word) : F.mul a b = F.reduce (F.clmul a b) := by simp [GF.mul]

/-- The reference multiplier as R122 writes it: the loop over the bits of `b`. -/
theorem GF.mulNaive_eq (F : GF) (a b : Word) :
    F.mulNaive a b = ((List.range F.n).foldl (F.naiveStep b) (0#64, a)).1 := by simp [GF.mulNaive]

theorem GF.sqr_eq (F : GF) (a : Word) : F.sqr a = F.mul a a := rfl

@[simp] theorem GF.gf16_n : GF.gf16.n = 16 := rfl
@[simp] theorem GF.gf64_n : GF.gf64.n = 64 := rfl
theorem GF.gf16_red : GF.gf16.red = 0x2B#64 := by decide
theorem GF.gf64_red : GF.gf64.red = 0x1B#64 := by decide
theorem GF.gf16_mask : GF.gf16.mask = 0xFFFF#64 := by decide
theorem GF.gf64_mask : GF.gf64.mask = 0xFFFF_FFFF_FFFF_FFFF#64 := by decide

@[simp] theorem Params.field_n (P : Params) (W : Width) : (P.field W).n = W.bits := by cases W <;> rfl
@[simp] theorem State.field_n (s : State) : s.field.n = s.width.bits := Params.field_n _ _

theorem Params.field_red_lt (P : Params) (W : Width) : (P.field W).red.toNat < 2 ^ W.bits := by
  cases W
  · simp only [Params.field, redOf, Width.bits, BitVec.toNat_ofNat]
    omega
  · exact BitVec.isLt _

theorem Width.bits_le (W : Width) : 1 ≤ W.bits ∧ W.bits ≤ 64 := by cases W <;> decide

/-- A word cut to a field is an element of it. -/
theorem GF.and_mask_lt (F : GF) (h : F.n ≤ 64) (w : Word) : (w &&& F.mask).toNat < 2 ^ F.n := by
  have hn : 2 ^ F.n ≤ 2 ^ 64 := Nat.pow_le_pow_right (by decide) h
  have hp : 0 < 2 ^ F.n := Nat.two_pow_pos _
  rw [BitVec.toNat_and]
  refine Nat.lt_of_le_of_lt Nat.and_le_right ?_
  rw [GF.mask, BitVec.toNat_ofNat, Nat.mod_eq_of_lt (by omega)]
  omega

/-- Cutting to a field changes no element of it. -/
theorem GF.and_mask_of_lt (F : GF) (h : F.n ≤ 64) {w : Word} (hw : w.toNat < 2 ^ F.n) : w &&& F.mask = w := by
  have hn : 2 ^ F.n ≤ 2 ^ 64 := Nat.pow_le_pow_right (by decide) h
  have hp : 0 < 2 ^ F.n := Nat.two_pow_pos _
  apply BitVec.eq_of_toNat_eq
  rw [BitVec.toNat_and, GF.mask, BitVec.toNat_ofNat, Nat.mod_eq_of_lt (by omega)]
  exact Nat.and_two_pow_sub_one_of_lt_two_pow hw

/-- A word cut to the active field is an element of it. -/
theorem State.and_mask_lt (s : State) (w : Word) : (w &&& s.field.mask).toNat < 2 ^ s.field.n :=
  s.field.and_mask_lt (by simpa using s.width.bits_le.2) w

/-- A register read is an element of the active field (R129). -/
theorem State.readE_lt (s : State) (i : EReg) : (s.readE i).toNat < 2 ^ s.field.n := s.and_mask_lt _

/-- Cutting to the active field changes no element of it. -/
theorem State.and_mask_of_lt (s : State) {w : Word} (h : w.toNat < 2 ^ s.field.n) : w &&& s.field.mask = w :=
  s.field.and_mask_of_lt (by simpa using s.width.bits_le.2) h

end Sys2Proof.Machine
end

