-- ==== Sys2Proof/Laws/Clmul.lean ====
section
/-!
SUPPORT. Words as polynomials over GF(2) (00_scope.md R9): the carry-less product is the product of polynomials, and the
default polynomial of GF(2^16) is irreducible.
-/

namespace Sys2Proof.Machine

open Polynomial

/-- The polynomial that a word stands for: the sum of `x^i` over its set bits (R9). -/
noncomputable def toPoly {k : Nat} (w : BitVec k) : (ZMod 2)[X] :=
  ∑ i ∈ Finset.range k, if w.getLsbD i then X ^ i else 0

@[simp] theorem toPoly_coeff {k : Nat} (w : BitVec k) (i : Nat) : (toPoly w).coeff i = if w.getLsbD i then 1 else 0 := by
  have h : ∀ j, (if w.getLsbD j then (X : (ZMod 2)[X]) ^ j else 0).coeff i = if i = j then (if w.getLsbD j then 1 else 0) else 0 := by
    intro j
    split <;> simp [coeff_X_pow]
  simp only [toPoly, finsetSum_coeff, h, Finset.sum_ite_eq, Finset.mem_range]
  split
  · rfl
  · next hi => simp [BitVec.getLsbD_of_ge w i (Nat.le_of_not_lt hi)]

/-- A word's polynomial determines it. -/
theorem toPoly_injective {k : Nat} {v w : BitVec k} (h : toPoly v = toPoly w) : v = w := by
  apply BitVec.eq_of_getLsbD_eq
  intro i _
  have := congrArg (fun p => p.coeff i) h
  simp only [toPoly_coeff] at this
  revert this
  cases v.getLsbD i <;> cases w.getLsbD i <;> simp

@[simp] theorem toPoly_zero {k : Nat} : toPoly (0#k) = 0 := by
  ext i
  simp

/-- Exclusive or is addition (R121). -/
theorem toPoly_xor {k : Nat} (v w : BitVec k) : toPoly (v ^^^ w) = toPoly v + toPoly w := by
  ext i
  simp only [toPoly_coeff, coeff_add, BitVec.getLsbD_xor]
  cases v.getLsbD i <;> cases w.getLsbD i <;> decide

theorem toPoly_setWidth {k l : Nat} (h : k ≤ l) (w : BitVec k) : toPoly (w.setWidth l) = toPoly w := by
  ext i
  simp only [toPoly_coeff, BitVec.getLsbD_setWidth]
  by_cases hi : i < l
  · simp [hi]
  · simp [hi, BitVec.getLsbD_of_ge w i (by omega)]

/-- A shift that loses no bit multiplies by a power of `x`. -/
theorem toPoly_shiftLeft {k : Nat} (w : BitVec k) (i : Nat) (h : ∀ j, k ≤ j + i → w.getLsbD j = false) :
    toPoly (w <<< i) = toPoly w * X ^ i := by
  ext j
  simp only [toPoly_coeff, coeff_mul_X_pow', BitVec.getLsbD_shiftLeft]
  by_cases hj : i ≤ j
  · by_cases hk : j < k
    · simp [hj, hk]
    · simp [hj, hk, h (j - i) (by omega)]
  · simp [hj, Nat.lt_of_not_le hj]

/-- A word of 64 bits, widened and shifted by at most 64. -/
theorem toPoly_widen_shiftLeft (w : Word) {i : Nat} (hi : i ≤ 64) :
    toPoly (w.setWidth 128 <<< i) = toPoly w * X ^ i := by
  rw [toPoly_shiftLeft _ _ fun j hj => ?_, toPoly_setWidth (by decide)]
  simp [BitVec.getLsbD_of_ge w j (by omega)]

/-- The carry-less product is the product of the polynomials (R123). -/
theorem toPoly_clmul {F : GF} (hn : F.n ≤ 64) (a b : Word) (hb : IsElem F.n b) :
    toPoly (F.clmul a b) = toPoly a * toPoly b := by
  have step : ∀ k, k ≤ 64 → toPoly ((List.range k).foldl (fun c i => if b.getLsbD i then c ^^^ (a.setWidth 128 <<< i) else c) 0#128)
      = toPoly a * ∑ i ∈ Finset.range k, if b.getLsbD i then X ^ i else 0 := by
    intro k
    induction k with
    | zero => simp
    | succ k ih =>
      intro hk
      rw [List.range_succ, List.foldl_append, Finset.sum_range_succ, mul_add, ← ih (by omega)]
      simp only [List.foldl_cons, List.foldl_nil]
      split
      · rw [toPoly_xor, toPoly_widen_shiftLeft a (by omega)]
      · simp
  rw [GF.clmul, step F.n hn, toPoly]
  congr 1
  apply Finset.sum_subset (by simpa using hn)
  intro i _ hi
  have hlt : b.toNat < 2 ^ i := Nat.lt_of_lt_of_le hb (Nat.pow_le_pow_right (by decide) (by simpa using hi))
  simp [BitVec.getLsbD, Nat.testBit_lt_two_pow hlt]

/-- An element's polynomial has degree below `n`, and conversely. -/
theorem toPoly_degree_lt {k : Nat} (w : BitVec k) (d : Nat) : (toPoly w).degree < d ↔ w.toNat < 2 ^ d := by
  rw [degree_lt_iff_coeff_zero]
  constructor
  · intro h
    refine Nat.lt_pow_two_of_testBit _ fun i hi => ?_
    have := h i hi
    rw [toPoly_coeff] at this
    by_contra hb
    simp only [Bool.not_eq_false] at hb
    rw [BitVec.getLsbD, hb] at this
    simp at this
  · intro h i hi
    have hlt : w.toNat < 2 ^ i := Nat.lt_of_lt_of_le h (Nat.pow_le_pow_right (by decide) hi)
    simp [BitVec.getLsbD, Nat.testBit_lt_two_pow hlt]

/-- Long division by `a`, whose top bit is bit `d`: clears the bits `d + k - 1` down to `d` of `c`. -/
def polyRem (a : Word) (d k : Nat) (c : BitVec 128) : BitVec 128 :=
  (List.range k).foldr (fun t c => if c.getLsbD (d + t) then c ^^^ (a.setWidth 128 <<< t) else c) c

/-- Long division keeps divisibility by the divisor. -/
theorem toPoly_dvd_polyRem {a : Word} {d k : Nat} (hk : k ≤ 64) {c : BitVec 128} (h : toPoly a ∣ toPoly c) :
    toPoly a ∣ toPoly (polyRem a d k c) := by
  unfold polyRem
  have : ∀ l : List Nat, (∀ t ∈ l, t ≤ 64) →
      toPoly a ∣ toPoly (l.foldr (fun t c => if c.getLsbD (d + t) then c ^^^ (a.setWidth 128 <<< t) else c) c) := by
    intro l
    induction l with
    | nil => intro _; exact h
    | cons t l ih =>
      intro hl
      have hd := ih fun x hx => hl x (List.mem_cons_of_mem _ hx)
      rw [List.foldr_cons]
      split
      · rw [toPoly_xor, toPoly_widen_shiftLeft a (hl t (List.mem_cons_self ..))]
        exact dvd_add hd (dvd_mul_right _ _)
      · exact hd
  exact this _ fun t ht => by have := List.mem_range.mp ht; omega

/-- No polynomial of degree 1 to 8 divides the default polynomial of GF(2^16), by long division. -/
theorem small_not_dvd : (List.range 512).all (fun v => v < 2 ||
    (polyRem (BitVec.ofNat 64 v) v.log2 (17 - v.log2) 0x1002B#128 != 0#128 &&
      decide ((polyRem (BitVec.ofNat 64 v) v.log2 (17 - v.log2) 0x1002B#128).toNat < 2 ^ v.log2))) = true := by
  decide +kernel

theorem gf16_poly : GF.gf16.poly = 0x1002B#128 := by decide

theorem not_dvd_of_lt {a : Word} (h1 : 1 < a.toNat) (h2 : a.toNat < 512) : ¬ toPoly a ∣ toPoly 0x1002B#128 := by
  intro h
  have hs := List.all_eq_true.mp small_not_dvd a.toNat (List.mem_range.mpr h2)
  simp only [Bool.or_eq_true, Bool.and_eq_true, decide_eq_true_eq, bne_iff_ne, BitVec.ofNat_toNat, BitVec.setWidth_eq] at hs
  obtain hs | ⟨hne, hlt⟩ := hs
  · omega
  · have hd := toPoly_dvd_polyRem (d := a.toNat.log2) (k := 17 - a.toNat.log2) (by omega) h
    have hz : toPoly (polyRem a a.toNat.log2 (17 - a.toNat.log2) 0x1002B#128) = 0 := by
      refine eq_zero_of_dvd_of_degree_lt hd (lt_of_lt_of_le ((toPoly_degree_lt _ _).mpr hlt) ?_)
      by_contra hc
      have := (toPoly_degree_lt a _).mp (lt_of_not_ge hc)
      have := Nat.log2_self_le (n := a.toNat) (by omega)
      omega
    exact hne (toPoly_injective (hz.trans toPoly_zero.symm))

/-- The default polynomial of GF(2^16) is irreducible (R7). -/
theorem gf16_irreducible : GF.gf16.Irreducible := by
  intro a b ha hb ha1 hb1 h
  have hp := toPoly_clmul (F := GF.gf16) (by decide) a b hb
  rw [h, gf16_poly] at hp
  by_cases hs : a.toNat < 512
  · exact not_dvd_of_lt ha1 hs (Dvd.intro _ hp.symm)
  by_cases ht : b.toNat < 512
  · exact not_dvd_of_lt hb1 ht (Dvd.intro_left _ hp.symm)
  have da : ((9 : Nat) : WithBot Nat) ≤ (toPoly a).degree := le_of_not_gt fun hc => hs ((toPoly_degree_lt a 9).mp hc)
  have db : ((9 : Nat) : WithBot Nat) ≤ (toPoly b).degree := le_of_not_gt fun hc => ht ((toPoly_degree_lt b 9).mp hc)
  have dp : (toPoly 0x1002B#128).degree < (17 : Nat) := (toPoly_degree_lt _ _).mpr (by decide)
  rw [hp, degree_mul] at dp
  exact absurd (lt_of_le_of_lt (add_le_add da db) dp) (by decide)

end Sys2Proof.Machine
end

