-- ==== Sys2Proof/Laws/Decode.lean ====
section
/-!
SUPPORT. The fields of a packed command word, and what a format's mask keeps of it: the facts about bits that decoding and
encoding rest on.
-/

namespace Sys2Proof.Laws

/-- The opcode of a packed word (R90). -/
@[simp] theorem opcodeOf_pack (op : BitVec 8) (d a b c : BitVec 4) (imm : BitVec 32) :
    opcodeOf (pack op d a b c imm) = op := by
  ext i hi
  simp (disch := omega) only [opcodeOf, pack, BitVec.getElem_extractLsb', BitVec.getLsbD_append, if_neg]
  rw [← BitVec.getLsbD_eq_getElem]
  congr 1
  omega

/-- The operand fields of a packed word (R90). -/
@[simp] theorem fieldsOf_pack (op : BitVec 8) (d a b c : BitVec 4) (imm : BitVec 32) :
    fieldsOf (pack op d a b c imm) = ⟨d, a, b, c, imm⟩ := by
  unfold fieldsOf pack
  congr 1 <;>
    (ext i hi
     simp (disch := omega) only [BitVec.getElem_extractLsb', BitVec.getLsbD_append, if_neg, if_pos]
     rw [← BitVec.getLsbD_eq_getElem]
     congr 1
     omega)

/-- A mask acts field by field on a packed word (R92). -/
theorem pack_and (op op' : BitVec 8) (d a b c d' a' b' c' : BitVec 4) (z' : BitVec 8) (imm imm' : BitVec 32) :
    pack op d a b c imm &&& (op' ++ d' ++ a' ++ b' ++ c' ++ z' ++ imm') =
      pack (op &&& op') (d &&& d') (a &&& a') (b &&& b') (c &&& c') (imm &&& imm') := by
  apply BitVec.eq_of_getLsbD_eq
  intro i hi
  simp only [pack, BitVec.getLsbD_and, BitVec.getLsbD_append]
  repeat' split
  all_goals simp

/-- The match value of a row is its opcode over zero fields (R92). -/
theorem matchWord_eq (r : Row) : r.matchWord = pack r.opcode 0 0 0 0 0 := by
  apply BitVec.eq_of_getLsbD_eq
  intro i hi
  simp only [Row.matchWord, pack, BitVec.getLsbD_append]
  repeat' split
  all_goals first | omega | simp | (congr 1)

/-- A buffer number as a field has bit 3 clear (R91). -/
@[simp] theorem ofPReg_and_eight (r : PReg) : ofPReg r &&& 8#4 = 0#4 := by revert r; decide

@[simp] theorem toEReg_ofEReg (r : EReg) : toEReg (ofEReg r) = r := rfl

@[simp] theorem toPReg_ofPReg (r : PReg) : toPReg (ofPReg r) = r := by revert r; decide

/-! The mask of each format, field by field: `0` where the format uses the field, all ones where it does not, bit 3 of a buffer
number (R92). -/

theorem mask_fN : Format.fN.mask = 255#8 ++ 15#4 ++ 15#4 ++ 15#4 ++ 15#4 ++ 255#8 ++ 0xFFFF_FFFF#32 := by
  decide +kernel

theorem mask_fE3 : Format.fE3.mask = 255#8 ++ 0#4 ++ 0#4 ++ 0#4 ++ 15#4 ++ 255#8 ++ 0xFFFF_FFFF#32 := by
  decide +kernel

theorem mask_fE2 : Format.fE2.mask = 255#8 ++ 0#4 ++ 0#4 ++ 15#4 ++ 15#4 ++ 255#8 ++ 0xFFFF_FFFF#32 := by
  decide +kernel

theorem mask_fE1 : Format.fE1.mask = 255#8 ++ 0#4 ++ 15#4 ++ 15#4 ++ 15#4 ++ 255#8 ++ 0xFFFF_FFFF#32 := by
  decide +kernel

theorem mask_fBAS : Format.fBAS.mask = 255#8 ++ 15#4 ++ 0#4 ++ 15#4 ++ 15#4 ++ 255#8 ++ 0#32 := by
  decide +kernel

theorem mask_fP1 : Format.fP1.mask = 255#8 ++ 8#4 ++ 15#4 ++ 15#4 ++ 15#4 ++ 255#8 ++ 0xFFFF_FFFF#32 := by
  decide +kernel

theorem mask_fP2 : Format.fP2.mask = 255#8 ++ 8#4 ++ 8#4 ++ 15#4 ++ 15#4 ++ 255#8 ++ 0xFFFF_FFFF#32 := by
  decide +kernel

theorem mask_fP3 : Format.fP3.mask = 255#8 ++ 8#4 ++ 8#4 ++ 8#4 ++ 15#4 ++ 255#8 ++ 0xFFFF_FFFF#32 := by
  decide +kernel

theorem mask_fEV : Format.fEV.mask = 255#8 ++ 0#4 ++ 8#4 ++ 0#4 ++ 15#4 ++ 255#8 ++ 0xFFFF_FFFF#32 := by
  decide +kernel

theorem mask_fPS : Format.fPS.mask = 255#8 ++ 8#4 ++ 0#4 ++ 15#4 ++ 15#4 ++ 255#8 ++ 0xFFFF_FFFF#32 := by
  decide +kernel

theorem mask_fPI : Format.fPI.mask = 255#8 ++ 8#4 ++ 15#4 ++ 15#4 ++ 15#4 ++ 255#8 ++ 0#32 := by
  decide +kernel

theorem mask_fENC : Format.fENC.mask = 255#8 ++ 8#4 ++ 8#4 ++ 15#4 ++ 15#4 ++ 255#8 ++ 0#32 := by
  decide +kernel

theorem mask_fREC : Format.fREC.mask = 255#8 ++ 8#4 ++ 8#4 ++ 8#4 ++ 0#4 ++ 255#8 ++ 0#32 := by
  decide +kernel

end Sys2Proof.Laws
end

