-- ==== Sys2Proof/Laws/Memory.lean ====
section
/-!
SUPPORT. Reads and writes of registers and buffers, and that every operation on the buffers keeps their canonical form
(`Memory.wf`).
-/

namespace Sys2Proof.Machine

theorem State.writeE_get (s : State) (i : EReg) (v : Word) (j : EReg) :
    (s.writeE i v).e[j] = if i = j then v else s.e[j] := by
  simp [State.writeE, Vector.getElem_set, Fin.ext_iff]

theorem State.setBuf_buf (s : State) (b : PReg) (p : List Word) (c : PReg) :
    (s.setBuf b p).buf c = if b = c then p else s.buf c := by
  simp [State.setBuf, State.buf, Vector.getElem_set, Fin.ext_iff]

@[simp] theorem State.setBuf_buf_self (s : State) (b : PReg) (p : List Word) : (s.setBuf b p).buf b = p := by
  simp [State.setBuf_buf]

/-- The canonical form, buffer by buffer. -/
theorem Memory.wf_iff (n : Nat) (m : Memory) :
    Memory.wf n m = true ↔ ∀ b : PReg, m[b].length ≤ Config.cap ∧ ∀ w ∈ m[b], w.toNat < 2 ^ n := by
  unfold Memory.wf
  simp only [List.all_eq_true, Bool.and_eq_true, decide_eq_true_eq]
  constructor
  · intro h b
    exact h _ (by simp)
  · intro h p hp
    obtain ⟨i, hi, rfl⟩ := List.mem_iff_getElem.mp hp
    have := h ⟨i, by simpa using hi⟩
    simpa using this

/-- Writing a buffer of at most `CAP` elements of the field keeps the canonical form. -/
theorem Memory.wf_set {n : Nat} {m : Memory} (hm : Memory.wf n m = true) (b : PReg) {p : List Word}
    (hl : p.length ≤ Config.cap) (hp : ∀ w ∈ p, w.toNat < 2 ^ n) : Memory.wf n (m.set b p) = true := by
  rw [Memory.wf_iff] at hm ⊢
  intro c
  simp only [Fin.getElem_fin, Vector.getElem_set]
  split
  · exact ⟨hl, hp⟩
  · exact hm c

/-- The same through the state's write of a buffer: RESIZE, TRIM, COPY and every command with a buffer destination. -/
theorem State.setBuf_wf {s : State} {n : Nat} (hm : Memory.wf n s.mem = true) (b : PReg) {p : List Word}
    (hl : p.length ≤ Config.cap) (hp : ∀ w ∈ p, w.toNat < 2 ^ n) : Memory.wf n (s.setBuf b p).mem = true :=
  Memory.wf_set hm b hl hp

/-- Empty buffers are in canonical form: after reset, soft reset and a width change. -/
theorem Memory.wf_empty (n : Nat) : Memory.wf n (Vector.replicate 8 []) = true := by
  simp [Memory.wf]

theorem State.reset_wf : Memory.wf State.reset.field.n State.reset.mem = true := Memory.wf_empty _

/-- A host write of one element keeps the canonical form (R66, R67). -/
theorem State.writeElem_wf {s : State} (hm : Memory.wf s.field.n s.mem = true) (b : PReg) (i : Nat) (v : Word) :
    Memory.wf s.field.n (s.setBuf b ((s.buf b).set i (v &&& s.field.mask))).mem = true := by
  have h := (Memory.wf_iff _ _).mp hm b
  refine State.setBuf_wf hm b (by rw [List.length_set]; exact h.1) fun w hw => ?_
  rcases List.mem_or_eq_of_mem_set hw with h' | rfl
  · exact h.2 w h'
  · exact s.and_mask_lt v

end Sys2Proof.Machine
end

