-- ==== Sys2Proof/Laws/Ops.lean ====
section
/-!
SUPPORT. One lemma per shared operation that says once everything it can answer, for the provers to cite instead of
unfolding it.
-/

namespace Sys2Proof.Machine

/-- `finish` answers the completed state and nothing else. -/
@[simp] theorem finish_next {s t : State} : finish s = .next t ↔ t = s.complete := by
  simp [finish, eq_comm]

/-- `raise` answers the state after the error and nothing else. -/
@[simp] theorem raise_next {w : Word} {k : ErrKind} {c : BitVec 8} {v : Nat} {s t : State} :
    raise w k c v s = .next t ↔ t = s.fail w k c v := by
  simp [raise, eq_comm]

/-- What RADIX and IRADIX can answer: the conversion on a power-of-two length, `E_LENGTH` sub-cause 1 on any other. -/
theorem convert_cases {w : Word} {f : Nat → List Word → List Word} {d : PReg} {s t : State} (h : convert w f d s = .next t) :
    (isPow2 (s.len d) = true ∧ t = (s.setBuf d (f (s.len d).log2 (s.buf d))).complete) ∨
      (isPow2 (s.len d) = false ∧ t = s.fail w .length 1#8 (s.len d)) := by
  unfold convert at h
  split at h
  · next hp => exact .inl ⟨hp, finish_next.mp h⟩
  · next hp => exact .inr ⟨by simpa using hp, raise_next.mp h⟩

/-- What the check of the six transforms can answer: `E_NOBASIS`, `E_LENGTH` sub-cause 2, or the transform itself. -/
theorem domainCheck_cases {w : Word} {d : PReg} {s t : State} {k : Result} (h : domainCheck w d s k = .next t) :
    (s.basisM = 0 ∧ t = s.fail w .noBasis 0#8 0) ∨
      (s.basisM ≠ 0 ∧ s.len d ≠ s.domain ∧ t = s.fail w .length 2#8 (s.len d)) ∨
      (s.basisM ≠ 0 ∧ s.len d = s.domain ∧ k = .next t) := by
  unfold domainCheck at h
  split at h
  · next hb => exact .inl ⟨hb, raise_next.mp h⟩
  · next hb =>
    split at h
    · next hl => exact .inr (.inl ⟨hb, hl, raise_next.mp h⟩)
    · next hl => exact .inr (.inr ⟨hb, by simpa using hl, h⟩)

/-- The check passes where a basis is active and the length fits. -/
theorem domainCheck_ok {w : Word} {d : PReg} {s : State} {k : Result} (hb : s.basisM ≠ 0) (hl : s.len d = s.domain) :
    domainCheck w d s k = k := by
  simp [domainCheck, hb, hl]

/-- What RECOVER's computing part can answer: `E_RECON` 4, `E_RECON` 3, or `dlen` coefficients written. -/
theorem recoverSteps_cases {w : Word} {d a b : PReg} {k : Word} {n : Nat} {s t : State}
    (h : recoverSteps w d a b k n s = .next t) :
    (k = 0#64 ∧ t = s.fail w .recon 4#8 0) ∨
      (k ≠ 0#64 ∧ ∃ q, q = recoverQuotient s.field s.basisM s.comb s.sub (s.buf a) (s.buf b) k ∧
        ((n < q.length ∧ t = s.fail w .recon 3#8 q.length) ∨
          (q.length ≤ n ∧ t = (s.setBuf d (expand (substitute s.field q (s.field.inv k)) n)).complete))) := by
  unfold recoverSteps at h
  split at h
  · next hk => exact .inl ⟨hk, raise_next.mp h⟩
  · next hk =>
    refine .inr ⟨hk, _, rfl, ?_⟩
    simp only at h
    split at h
    · next hq => exact .inl ⟨hq, raise_next.mp h⟩
    · next hq => exact .inr ⟨Nat.le_of_not_lt hq, finish_next.mp h⟩

/-- What the engine does: idle, the command's rule, or `E_ILLEGAL` (R246, R96). -/
theorem engineStep_eq (s : State) :
    engineStep s = match s.inflight with
      | none => .next s
      | some w => match decode w with
        | .ok i => exec i s
        | .error _ => .next (s.fail w .illegal 0#8 0) := rfl

/-- A held access waits for the engine (R69). -/
theorem accessStep_held {a : Access} {rest : List Input} {s : State} (hb : s.busy = true) (ha : heldWhileBusy a = true) :
    accessStep a rest s = engineStep s := by
  simp [accessStep, hb, ha]

/-- An access that is not held takes effect (R62). -/
theorem accessStep_free {a : Access} {rest : List Input} {s : State} (h : (s.busy && heldWhileBusy a) = false) :
    accessStep a rest s = .next ((s.setInputs rest).hostAccess a) := by
  simp [accessStep, h]

/-- A host read changes nothing but the word returned and, where it is refused, `BUSERR` (R73). -/
theorem State.hostRead_cases (s : State) (off : Nat) :
    (∃ v, s.window off = some v ∧ s.hostRead off = { s with rdata := v }) ∨
      (s.window off = none ∧ s.hostRead off = { s with rdata := 0#64, buserr := true }) := by
  unfold State.hostRead
  split
  · next v hv => exact .inl ⟨v, hv, rfl⟩
  · next hv => exact .inr ⟨hv, rfl⟩

/-- A host write takes the effect of its word or is refused (R70). -/
theorem State.hostWrite_cases (s : State) (off : Nat) (v : Word) :
    (∃ l t, locate off = some l ∧ s.writeLoc l v = some t ∧ s.hostWrite off v = t) ∨
      s.hostWrite off v = { s with buserr := true } := by
  unfold State.hostWrite
  split
  · next t ht =>
    obtain ⟨l, hl, hw⟩ := Option.bind_eq_some_iff.mp ht
    exact .inl ⟨l, t, hl, hw, rfl⟩
  · exact .inr rfl

@[simp] theorem length_zeros (k : Nat) : (zeros k).length = k := by simp [zeros]

theorem length_expand (p : List Word) {L : Nat} (h : p.length ≤ L) : (expand p L).length = L := by
  simp [expand]
  omega

@[simp] theorem length_xorList (p q : List Word) : (xorList p q).length = min p.length q.length := by simp [xorList]

theorem coeffCount_le (p : List Word) : coeffCount p ≤ p.length := by
  induction p with
  | nil => simp [coeffCount]
  | cons c cs ih =>
    unfold coeffCount
    split
    · split <;> simp
    · next k hk => rw [hk] at ih; simpa using Nat.succ_le_succ ih

theorem length_trim (p : List Word) : (trim p).length = coeffCount p := by
  simp [trim, coeffCount_le]

end Sys2Proof.Machine
end

