-- ==== Sys2Proof/Laws/PerInstr.lean ====
section
/-!
SUPPORT. The family EncodingFits: the word of a command has the opcode of a row of the opcode map and satisfies that row's
`w & mask = match` (30_encoding.md R92, R95), one lemma per command.
-/

namespace Sys2Proof.Laws

/-- The word of `i` fits a row of the opcode map (R92). -/
def EncodingFits.Statement (i : Instr) : Prop :=
  ∃ r ∈ rows, opcodeOf (encode i) = r.opcode ∧ encode i &&& r.fmt.mask = r.matchWord

/-- A packed word fits a row whose mask clears its operand fields. -/
theorem fits {r : Row} (hr : r ∈ rows) {i : Instr} {d a b c d' a' b' c' : BitVec 4} {imm imm' : BitVec 32}
    (hi : encode i = pack r.opcode d a b c imm) (hm : r.fmt.mask = 255#8 ++ d' ++ a' ++ b' ++ c' ++ 255#8 ++ imm')
    (hd : d &&& d' = 0) (ha : a &&& a' = 0) (hb : b &&& b' = 0) (hc : c &&& c' = 0) (hz : imm &&& imm' = 0) :
    EncodingFits.Statement i := by
  refine ⟨r, hr, ?_, ?_⟩
  · rw [hi, opcodeOf_pack]
  · rw [hi, hm, pack_and, hd, ha, hb, hc, hz, matchWord_eq]
    congr 1
    exact BitVec.and_allOnes

/-- Row number `n` of the opcode map is a row of it. -/
theorem row_mem (n : Nat) (h : n < rows.length) : rows[n] ∈ rows := List.getElem_mem h

theorem EncodingFits.nop : EncodingFits.Statement (.nop) :=
  fits (row_mem 0 (by decide)) rfl mask_fN (by simp) (by simp) (by simp) (by simp) (by simp)

theorem EncodingFits.fadd (d a b : EReg) : EncodingFits.Statement (.fadd d a b) :=
  fits (row_mem 1 (by decide)) rfl mask_fE3 (by simp) (by simp) (by simp) (by simp) (by simp)

theorem EncodingFits.fsub (d a b : EReg) : EncodingFits.Statement (.fsub d a b) :=
  fits (row_mem 2 (by decide)) rfl mask_fE3 (by simp) (by simp) (by simp) (by simp) (by simp)

theorem EncodingFits.fneg (d a : EReg) : EncodingFits.Statement (.fneg d a) :=
  fits (row_mem 3 (by decide)) rfl mask_fE2 (by simp) (by simp) (by simp) (by simp) (by simp)

theorem EncodingFits.fmul (d a b : EReg) : EncodingFits.Statement (.fmul d a b) :=
  fits (row_mem 4 (by decide)) rfl mask_fE3 (by simp) (by simp) (by simp) (by simp) (by simp)

theorem EncodingFits.fmuln (d a b : EReg) : EncodingFits.Statement (.fmuln d a b) :=
  fits (row_mem 5 (by decide)) rfl mask_fE3 (by simp) (by simp) (by simp) (by simp) (by simp)

theorem EncodingFits.fsqr (d a : EReg) : EncodingFits.Statement (.fsqr d a) :=
  fits (row_mem 6 (by decide)) rfl mask_fE2 (by simp) (by simp) (by simp) (by simp) (by simp)

theorem EncodingFits.finv (d a : EReg) : EncodingFits.Statement (.finv d a) :=
  fits (row_mem 7 (by decide)) rfl mask_fE2 (by simp) (by simp) (by simp) (by simp) (by simp)

theorem EncodingFits.fbfly (d a b : EReg) : EncodingFits.Statement (.fbfly d a b) :=
  fits (row_mem 8 (by decide)) rfl mask_fE3 (by simp) (by simp) (by simp) (by simp) (by simp)

theorem EncodingFits.fibfly (d a b : EReg) : EncodingFits.Statement (.fibfly d a b) :=
  fits (row_mem 9 (by decide)) rfl mask_fE3 (by simp) (by simp) (by simp) (by simp) (by simp)

theorem EncodingFits.frand (d : EReg) : EncodingFits.Statement (.frand d) :=
  fits (row_mem 10 (by decide)) rfl mask_fE1 (by simp) (by simp) (by simp) (by simp) (by simp)

theorem EncodingFits.basis (a : EReg) (m : BitVec 32) : EncodingFits.Statement (.basis a m) :=
  fits (row_mem 11 (by decide)) rfl mask_fBAS (by simp) (by simp) (by simp) (by simp) (by simp)

theorem EncodingFits.radix (d : PReg) : EncodingFits.Statement (.radix d) :=
  fits (row_mem 12 (by decide)) rfl mask_fP1 (by simp) (by simp) (by simp) (by simp) (by simp)

theorem EncodingFits.iradix (d : PReg) : EncodingFits.Statement (.iradix d) :=
  fits (row_mem 13 (by decide)) rfl mask_fP1 (by simp) (by simp) (by simp) (by simp) (by simp)

theorem EncodingFits.fft (d : PReg) : EncodingFits.Statement (.fft d) :=
  fits (row_mem 14 (by decide)) rfl mask_fP1 (by simp) (by simp) (by simp) (by simp) (by simp)

theorem EncodingFits.ifft (d : PReg) : EncodingFits.Statement (.ifft d) :=
  fits (row_mem 15 (by decide)) rfl mask_fP1 (by simp) (by simp) (by simp) (by simp) (by simp)

theorem EncodingFits.fftl (d : PReg) : EncodingFits.Statement (.fftl d) :=
  fits (row_mem 16 (by decide)) rfl mask_fP1 (by simp) (by simp) (by simp) (by simp) (by simp)

theorem EncodingFits.ifftl (d : PReg) : EncodingFits.Statement (.ifftl d) :=
  fits (row_mem 17 (by decide)) rfl mask_fP1 (by simp) (by simp) (by simp) (by simp) (by simp)

theorem EncodingFits.fftp (d : PReg) : EncodingFits.Statement (.fftp d) :=
  fits (row_mem 18 (by decide)) rfl mask_fP1 (by simp) (by simp) (by simp) (by simp) (by simp)

theorem EncodingFits.ifftp (d : PReg) : EncodingFits.Statement (.ifftp d) :=
  fits (row_mem 19 (by decide)) rfl mask_fP1 (by simp) (by simp) (by simp) (by simp) (by simp)

theorem EncodingFits.eval (d : EReg) (a : PReg) (b : EReg) : EncodingFits.Statement (.eval d a b) :=
  fits (row_mem 20 (by decide)) rfl mask_fEV (by simp) (by simp) (by simp) (by simp) (by simp)

theorem EncodingFits.pmuln (d a b : PReg) : EncodingFits.Statement (.pmuln d a b) :=
  fits (row_mem 21 (by decide)) rfl mask_fP3 (by simp) (by simp) (by simp) (by simp) (by simp)

theorem EncodingFits.pmul (d a b : PReg) : EncodingFits.Statement (.pmul d a b) :=
  fits (row_mem 22 (by decide)) rfl mask_fP3 (by simp) (by simp) (by simp) (by simp) (by simp)

theorem EncodingFits.muls (d a b : PReg) : EncodingFits.Statement (.muls d a b) :=
  fits (row_mem 23 (by decide)) rfl mask_fP3 (by simp) (by simp) (by simp) (by simp) (by simp)

theorem EncodingFits.subst (d : PReg) (a : EReg) : EncodingFits.Statement (.subst d a) :=
  fits (row_mem 24 (by decide)) rfl mask_fPS (by simp) (by simp) (by simp) (by simp) (by simp)

theorem EncodingFits.invs (d : PReg) : EncodingFits.Statement (.invs d) :=
  fits (row_mem 25 (by decide)) rfl mask_fP1 (by simp) (by simp) (by simp) (by simp) (by simp)

theorem EncodingFits.pdiv (d a b : PReg) : EncodingFits.Statement (.pdiv d a b) :=
  fits (row_mem 26 (by decide)) rfl mask_fP3 (by simp) (by simp) (by simp) (by simp) (by simp)

theorem EncodingFits.zpoly (d a : PReg) : EncodingFits.Statement (.zpoly d a) :=
  fits (row_mem 27 (by decide)) rfl mask_fP2 (by simp) (by simp) (by simp) (by simp) (by simp)

theorem EncodingFits.encode (d a : PReg) (factor : BitVec 32) : EncodingFits.Statement (.encode d a factor) :=
  fits (row_mem 28 (by decide)) rfl mask_fENC (by simp) (by simp) (by simp) (by simp) (by simp)

theorem EncodingFits.recover (d a b : PReg) (c : EReg) (dlen : BitVec 32) : EncodingFits.Statement (.recover d a b c dlen) :=
  fits (row_mem 29 (by decide)) rfl mask_fREC (by simp) (by simp) (by simp) (by simp) (by simp)

theorem EncodingFits.resize (d : PReg) (len : BitVec 32) : EncodingFits.Statement (.resize d len) :=
  fits (row_mem 30 (by decide)) rfl mask_fPI (by simp) (by simp) (by simp) (by simp) (by simp)

theorem EncodingFits.trim (d : PReg) : EncodingFits.Statement (.trim d) :=
  fits (row_mem 31 (by decide)) rfl mask_fP1 (by simp) (by simp) (by simp) (by simp) (by simp)

theorem EncodingFits.copy (d a : PReg) : EncodingFits.Statement (.copy d a) :=
  fits (row_mem 32 (by decide)) rfl mask_fP2 (by simp) (by simp) (by simp) (by simp) (by simp)

end Sys2Proof.Laws
end

