-- ==== Sys2Proof/Laws/Window.lean ====
section
/-!
SUPPORT. The address map of R63 in both directions, so that no proof unfolds `locate`: the offset of every mapped word, and what
`locate` can answer.
-/

namespace Sys2Proof.Machine

/-- The offset of a mapped word (R63). -/
def Loc.offset : Loc → Nat
  | .id => 0x000
  | .ctrl => 0x001
  | .status => 0x002
  | .cmd => 0x003
  | .errinfo => 0x004
  | .errcmd => 0x005
  | .param => 0x006
  | .e i => 0x010 + i.val
  | .len b => 0x020 + b.val
  | .basis i => 0x040 + i
  | .comb i => 0x10000 + i
  | .sub k => 0x20000 + k
  | .elem b i => 0x100000 + b.val * 0x10000 + i

/-- The counts of R63, where the type of the index does not bound it. -/
def Loc.inMap : Loc → Prop
  | .basis i => i < 16
  | .comb i => i < 65536
  | .sub k => k < 32768
  | .elem _ i => i < 65536
  | .id | .ctrl | .status | .cmd | .errinfo | .errcmd | .param | .e _ | .len _ => True

@[simp] theorem locate_id : locate 0x000 = some .id := rfl
@[simp] theorem locate_ctrl : locate 0x001 = some .ctrl := rfl
@[simp] theorem locate_status : locate 0x002 = some .status := rfl
@[simp] theorem locate_cmd : locate 0x003 = some .cmd := rfl
@[simp] theorem locate_errinfo : locate 0x004 = some .errinfo := rfl
@[simp] theorem locate_errcmd : locate 0x005 = some .errcmd := rfl
@[simp] theorem locate_param : locate 0x006 = some .param := rfl

theorem locate_e (i : EReg) : locate (0x010 + i.val) = some (.e i) := by revert i; decide

theorem locate_len (b : PReg) : locate (0x020 + b.val) = some (.len b) := by revert b; decide

theorem locate_basis {i : Nat} (h : i < 16) : locate (0x040 + i) = some (.basis i) := by
  unfold locate
  iterate 9 rw [if_neg (by omega)]
  rw [if_pos (by omega), Nat.add_sub_cancel_left]

theorem locate_comb {i : Nat} (h : i < 65536) : locate (0x10000 + i) = some (.comb i) := by
  unfold locate
  iterate 10 rw [if_neg (by omega)]
  rw [if_pos (by omega), Nat.add_sub_cancel_left]

theorem locate_sub {k : Nat} (h : k < 32768) : locate (0x20000 + k) = some (.sub k) := by
  unfold locate
  iterate 11 rw [if_neg (by omega)]
  rw [if_pos (by omega), Nat.add_sub_cancel_left]

theorem locate_elem (b : PReg) {i : Nat} (h : i < 65536) : locate (0x100000 + b.val * 0x10000 + i) = some (.elem b i) := by
  unfold locate
  iterate 12 rw [if_neg (by omega)]
  have hd : (0x100000 + b.val * 0x10000 + i - 0x100000) / 0x10000 = b.val := by omega
  have hm : (0x100000 + b.val * 0x10000 + i - 0x100000) % 0x10000 = i := by omega
  rw [if_pos (by omega), hd, hm, Fin.ofNat_val_eq_self]

/-- `locate` finds every mapped word at its offset. -/
theorem locate_offset {l : Loc} (h : l.inMap) : locate l.offset = some l := by
  cases l with
  | e i => exact locate_e i
  | len b => exact locate_len b
  | basis i => exact locate_basis h
  | comb i => exact locate_comb h
  | sub k => exact locate_sub h
  | elem b i => exact locate_elem b h
  | id | ctrl | status | cmd | errinfo | errcmd | param => rfl

/-- What `locate` answers stands at that offset. -/
theorem offset_of_locate {off : Nat} {l : Loc} (h : locate off = some l) : l.offset = off ∧ l.inMap := by
  unfold locate at h
  by_cases h0 : off = 0x000
  · rw [if_pos h0] at h; cases h; exact ⟨h0.symm, trivial⟩
  rw [if_neg h0] at h
  by_cases h1 : off = 0x001
  · rw [if_pos h1] at h; cases h; exact ⟨h1.symm, trivial⟩
  rw [if_neg h1] at h
  by_cases h2 : off = 0x002
  · rw [if_pos h2] at h; cases h; exact ⟨h2.symm, trivial⟩
  rw [if_neg h2] at h
  by_cases h3 : off = 0x003
  · rw [if_pos h3] at h; cases h; exact ⟨h3.symm, trivial⟩
  rw [if_neg h3] at h
  by_cases h4 : off = 0x004
  · rw [if_pos h4] at h; cases h; exact ⟨h4.symm, trivial⟩
  rw [if_neg h4] at h
  by_cases h5 : off = 0x005
  · rw [if_pos h5] at h; cases h; exact ⟨h5.symm, trivial⟩
  rw [if_neg h5] at h
  by_cases h6 : off = 0x006
  · rw [if_pos h6] at h; cases h; exact ⟨h6.symm, trivial⟩
  rw [if_neg h6] at h
  by_cases h7 : 0x010 ≤ off ∧ off < 0x020
  · rw [if_pos h7] at h; cases h; exact ⟨by simp only [Loc.offset, Fin.ofNat]; omega, trivial⟩
  rw [if_neg h7] at h
  by_cases h8 : 0x020 ≤ off ∧ off < 0x028
  · rw [if_pos h8] at h; cases h; exact ⟨by simp only [Loc.offset, Fin.ofNat]; omega, trivial⟩
  rw [if_neg h8] at h
  by_cases h9 : 0x040 ≤ off ∧ off < 0x050
  · rw [if_pos h9] at h; cases h; exact ⟨by simp only [Loc.offset]; omega, by simp only [Loc.inMap]; omega⟩
  rw [if_neg h9] at h
  by_cases h10 : 0x10000 ≤ off ∧ off < 0x20000
  · rw [if_pos h10] at h; cases h; exact ⟨by simp only [Loc.offset]; omega, by simp only [Loc.inMap]; omega⟩
  rw [if_neg h10] at h
  by_cases h11 : 0x20000 ≤ off ∧ off < 0x28000
  · rw [if_pos h11] at h; cases h; exact ⟨by simp only [Loc.offset]; omega, by simp only [Loc.inMap]; omega⟩
  rw [if_neg h11] at h
  by_cases h12 : 0x100000 ≤ off ∧ off < 0x180000
  · rw [if_pos h12] at h; cases h; exact ⟨by simp only [Loc.offset, Fin.ofNat]; omega, by simp only [Loc.inMap]; omega⟩
  rw [if_neg h12] at h
  cases h

/-- An offset is mapped exactly when it is the offset of some word of the map. -/
theorem locate_eq_none {off : Nat} : locate off = none ↔ ∀ l : Loc, l.inMap → l.offset ≠ off := by
  constructor
  · rintro h l hl rfl
    rw [locate_offset hl] at h
    cases h
  · intro h
    cases hl : locate off with
    | none => rfl
    | some l => exact absurd (offset_of_locate hl).1 (h l (offset_of_locate hl).2)

/-- The offsets `locate` does not map, as R63 lists them. -/
theorem locate_unmapped {off : Nat} (h : locate off = none) :
    (0x007 ≤ off ∧ off ≤ 0x00F) ∨ (0x028 ≤ off ∧ off ≤ 0x03F) ∨ (0x050 ≤ off ∧ off ≤ 0xFFFF) ∨
      (0x28000 ≤ off ∧ off ≤ 0xFFFFF) ∨ 0x180000 ≤ off := by
  by_contra hc
  have hn := locate_eq_none.mp h
  rcases Nat.lt_or_ge off 0x007 with h7 | h7
  · have : off = 0 ∨ off = 1 ∨ off = 2 ∨ off = 3 ∨ off = 4 ∨ off = 5 ∨ off = 6 := by omega
    rcases this with rfl | rfl | rfl | rfl | rfl | rfl | rfl <;> cases h
  rcases Nat.lt_or_ge off 0x020 with h20 | h20
  · exact hn (.e ⟨off - 0x010, by omega⟩) trivial (by simp only [Loc.offset]; omega)
  rcases Nat.lt_or_ge off 0x028 with h28 | h28
  · exact hn (.len ⟨off - 0x020, by omega⟩) trivial (by simp only [Loc.offset]; omega)
  rcases Nat.lt_or_ge off 0x050 with h50 | h50
  · exact hn (.basis (off - 0x040)) (by simp only [Loc.inMap]; omega) (by simp only [Loc.offset]; omega)
  rcases Nat.lt_or_ge off 0x20000 with hc1 | hc1
  · exact hn (.comb (off - 0x10000)) (by simp only [Loc.inMap]; omega) (by simp only [Loc.offset]; omega)
  rcases Nat.lt_or_ge off 0x28000 with hc2 | hc2
  · exact hn (.sub (off - 0x20000)) (by simp only [Loc.inMap]; omega) (by simp only [Loc.offset]; omega)
  · exact hn (.elem ⟨(off - 0x100000) / 0x10000, by omega⟩ ((off - 0x100000) % 0x10000)) (by simp only [Loc.inMap]; omega)
      (by simp only [Loc.offset]; omega)

/-- The window at a mapped word. -/
theorem State.window_offset {s : State} {l : Loc} (h : l.inMap) : s.window l.offset = s.readLoc l := by
  rw [State.window, locate_offset h, Option.bind_some]

end Sys2Proof.Machine
end

