-- ==== Sys2Proof/Tests/Slice0.lean ====
section
/-!
SUPPORT. Tests of the model on values the spec gives (95_test_vectors.md unless a comment names another file), the smoke test of
well-formedness, and for each statement with hypotheses a named witness that they can be met.
-/

namespace Sys2Proof.Tests

open Sys2Proof.Machine Sys2Proof.Reference

set_option Elab.async false

/-! ## Well-formedness (30_encoding.md R101) -/

theorem test_fbfly_same_register_ill_formed : (Instr.fbfly 1 1 2).wellFormed = false := by decide
theorem test_fibfly_same_register_ill_formed : (Instr.fibfly 3 3 4).wellFormed = false := by decide
theorem test_fbfly_twiddle_may_coincide : (Instr.fbfly 1 2 1).wellFormed = true := by decide

/-! ## Decoding: the words of section 2.1 -/

theorem test_decode_kernel :
    decodeTableWord 64 0x0000_0000_0000_0000 = some .nop ∧
    decodeTableWord 64 0x10F1_2000_0000_0000 = some (.fadd 15 1 2) ∧
    decodeTableWord 64 0x1134_5000_0000_0000 = some (.fsub 3 4 5) ∧
    decodeTableWord 64 0x1267_0000_0000_0000 = some (.fneg 6 7) ∧
    decodeTableWord 64 0x1389_A000_0000_0000 = some (.fmul 8 9 10) ∧
    decodeTableWord 64 0x14BC_D000_0000_0000 = some (.fmuln 11 12 13) ∧
    decodeTableWord 64 0x15EF_0000_0000_0000 = some (.fsqr 14 15) ∧
    decodeTableWord 64 0x160F_0000_0000_0000 = some (.finv 0 15) ∧
    decodeTableWord 64 0x1712_3000_0000_0000 = some (.fbfly 1 2 3) ∧
    decodeTableWord 64 0x1821_3000_0000_0000 = some (.fibfly 2 1 3) ∧
    decodeTableWord 64 0x1990_0000_0000_0000 = some (.frand 9) ∧
    decodeTableWord 64 0x2005_0000_0000_0010 = some (.basis 5 16#32) := by decide +kernel

theorem test_decode_transforms :
    decodeTableWord 64 0x3070_0000_0000_0000 = some (.radix 7) ∧
    decodeTableWord 64 0x3160_0000_0000_0000 = some (.iradix 6) ∧
    decodeTableWord 64 0x4050_0000_0000_0000 = some (.fft 5) ∧
    decodeTableWord 64 0x4140_0000_0000_0000 = some (.ifft 4) ∧
    decodeTableWord 64 0x4230_0000_0000_0000 = some (.fftl 3) ∧
    decodeTableWord 64 0x4320_0000_0000_0000 = some (.ifftl 2) ∧
    decodeTableWord 64 0x4410_0000_0000_0000 = some (.fftp 1) ∧
    decodeTableWord 64 0x4500_0000_0000_0000 = some (.ifftp 0) := by decide +kernel

theorem test_decode_poly :
    decodeTableWord 64 0x50F7_E000_0000_0000 = some (.eval 15 7 14) ∧
    decodeTableWord 64 0x5176_5000_0000_0000 = some (.pmuln 7 6 5) ∧
    decodeTableWord 64 0x5212_3000_0000_0000 = some (.pmul 1 2 3) ∧
    decodeTableWord 64 0x5344_5000_0000_0000 = some (.muls 4 4 5) ∧
    decodeTableWord 64 0x547F_0000_0000_0000 = some (.subst 7 15) ∧
    decodeTableWord 64 0x5530_0000_0000_0000 = some (.invs 3) ∧
    decodeTableWord 64 0x5621_0000_0000_0000 = some (.pdiv 2 1 0) ∧
    decodeTableWord 64 0x5767_0000_0000_0000 = some (.zpoly 6 7) := by decide +kernel

theorem test_decode_erasure_and_buffers :
    decodeTableWord 64 0x6076_0000_FFFF_FFFF = some (.encode 7 6 4294967295#32) ∧
    decodeTableWord 64 0x6176_5F00_0001_0000 = some (.recover 7 6 5 15 65536#32) ∧
    decodeTableWord 64 0x7070_0000_0001_0000 = some (.resize 7 65536#32) ∧
    decodeTableWord 64 0x7070_0000_FFFF_FFFF = some (.resize 7 4294967295#32) ∧
    decodeTableWord 64 0x7100_0000_0000_0000 = some (.trim 0) ∧
    decodeTableWord 64 0x7270_0000_0000_0000 = some (.copy 7 0) := by decide +kernel

/-- The pseudo-commands of 30_encoding.md R99. -/
theorem test_decode_pseudo :
    decodeTableWord 64 0x1212_0000_0000_0000 = some (.fneg 1 2) ∧
    decodeTableWord 64 0x1077_7000_0000_0000 = some (.fadd 7 7 7) ∧
    decodeTableWord 64 0x7010_0000_0000_0010 = some (.resize 1 16#32) ∧
    decodeTableWord 64 0x7020_0000_0000_0000 = some (.resize 2 0#32) ∧
    decodeTableWord 64 0x7234_0000_0000_0000 = some (.copy 3 4) := by decide +kernel

theorem test_illegal_words :
    ([0x0100_0000_0000_0000, 0x1A00_0000_0000_0000, 0x7300_0000_0000_0000, 0xFFFF_FFFF_FFFF_FFFF, 0x0000_0000_0000_0001,
      0x0010_0000_0000_0000, 0x1012_3100_0000_0000, 0x1012_3001_0000_0000, 0x1212_3000_0000_0000, 0x1911_1000_0000_0000,
      0x2015_0000_0000_0003, 0x2005_0001_0000_0003, 0x1711_2000_0000_0000, 0x1833_4000_0000_0000, 0x4080_0000_0000_0000,
      0x4000_0000_0000_0005, 0x5028_1000_0000_0000, 0x5218_2000_0000_0000, 0x5480_0000_0000_0000, 0x6121_B400_0000_0004,
      0x6121_3410_0000_0004, 0x7080_0000_0000_0004, 0x7001_0000_0000_0004, 0x7210_0000_0000_0001] : List Nat).all
      (fun w => (decodeTableWord 64 w).isNone) = true := by decide +kernel

theorem test_opcodes_distinct : (rows.map (·.opcode)).Nodup := by decide +kernel
theorem test_row_count : rows.length = 33 := by decide +kernel

/-! ## Small states -/

def words (l : List Nat) : List Word := l.map (BitVec.ofNat 64)

/-- A state after reset with these registers and buffers; what is not listed is 0 or empty. -/
def st (e : List Nat) (bufs : List (List Nat)) : State :=
  { State.reset with
    e := Vector.ofFn fun i => BitVec.ofNat 64 (e.getD i.val 0)
    mem := Vector.ofFn fun b => words (bufs.getD b.val []) }

/-- The same in 64-bit mode. -/
def st64 (e : List Nat) (bufs : List (List Nat)) : State := { st e bufs with width := .gf64 }

/-- The tables of `g0 = 0x0800`, span 3, as section 2.3 lists them. -/
def withBasis3 (s : State) : State :=
  s.setBasis 3 (words [0x88AD, 0x0732, 0x0001])
    (words [0x0000, 0x0001, 0x0732, 0x0733, 0x88AD, 0x88AC, 0x8F9F, 0x8F9E]) (words [0x0000, 0x0732, 0x88AD, 0x8F9F])

/-- Whether a command ends in a next state with the property. -/
def ends (r : Result) (f : State → Bool) : Bool :=
  match r with
  | .next t => f t
  | .fault _ => false
  | .refused _ => false

/-- Whether a command ends with the error, `DONE` set and `BUSY` clear. -/
def fails (r : Result) (code : BitVec 8) (sub val : Nat) : Bool :=
  ends r fun t => t.errf && t.done && !t.busy && t.err == code && t.errinfo == BitVec.ofNat 64 (sub * 2 ^ 56 + val)

/-! ## Field Kernel (section 2.2) -/

theorem test_fadd : ends (exec (.fadd 3 1 2) (st [0, 0x1234, 0xABCD] [])) (fun t => t.e[3] == 0xB9F9#64) = true := by
  decide +kernel
theorem test_fadd_self_is_zero : ends (exec (.fadd 1 1 1) (st [0, 0x1234] [])) (fun t => t.e[1] == 0#64) = true := by
  decide +kernel
theorem test_fsub : ends (exec (.fsub 3 1 2) (st [0, 0x1234, 0xABCD] [])) (fun t => t.e[3] == 0xB9F9#64) = true := by
  decide +kernel
theorem test_fneg : ends (exec (.fneg 0 1) (st [0, 0x1234] [])) (fun t => t.e[0] == 0x1234#64 && t.done) = true := by
  decide +kernel
theorem test_fmul : ends (exec (.fmul 3 1 2) (st [0, 0x1234, 0xABCD] [])) (fun t => t.e[3] == 0x1D05#64) = true := by
  decide +kernel
theorem test_fmul_64 : ends (exec (.fmul 1 1 2) (st64 [0, 0x0123456789ABCDEF, 0xFEDCBA9876543210] []))
    (fun t => t.e[1] == 0x48827AB55D976FA0#64) = true := by decide +kernel
theorem test_fmuln : ends (exec (.fmuln 3 1 2) (st [0, 0x8000, 2] [])) (fun t => t.e[3] == 0x002B#64) = true := by
  decide +kernel
theorem test_fmuln_64 : ends (exec (.fmuln 3 1 2) (st64 [0, 0xFFFFFFFFFFFFFFFF, 0xFFFFFFFFFFFFFFFF] []))
    (fun t => t.e[3] == 0x5555555555555513#64) = true := by decide +kernel
theorem test_fsqr : ends (exec (.fsqr 2 1) (st [0, 0x8000] [])) (fun t => t.e[2] == 0xC10E#64) = true := by decide +kernel
theorem test_fsqr_64 : ends (exec (.fsqr 2 1) (st64 [0, 0x8000000000000000] []))
    (fun t => t.e[2] == 0xC00000000000005A#64) = true := by decide +kernel
theorem test_finv : ends (exec (.finv 2 1) (st [0, 0x1234] [])) (fun t => t.e[2] == 0xA959#64) = true := by decide +kernel
theorem test_finv_zero : ends (exec (.finv 1 0) (st [0, 7] [])) (fun t => t.e[1] == 0#64 && !t.errf) = true := by decide +kernel
theorem test_fbfly : ends (exec (.fbfly 1 2 3) (st [0, 0x1234, 0xABCD, 3] []))
    (fun t => t.e[1] == 0xEE48#64 && t.e[2] == 0x4585#64) = true := by decide +kernel
theorem test_fbfly_twiddle_is_destination : ends (exec (.fbfly 1 2 1) (st [0, 0xFFFF, 0xFFFF] []))
    (fun t => t.e[1] == 0x5405#64 && t.e[2] == 0xABFA#64) = true := by decide +kernel
theorem test_fibfly : ends (exec (.fibfly 1 2 3) (st [0, 0xEE48, 0x4585, 3] []))
    (fun t => t.e[1] == 0x1234#64 && t.e[2] == 0xABCD#64) = true := by decide +kernel
/-- Two zero draws are rejected; a word that is zero in its low 16 bits counts as zero in 16-bit mode. -/
theorem test_frand_rejects_zero_words :
    ends (exec (.frand 4) { st [] [] with entropy := words [0, 0xFFFFFFFFFFFF0000, 0x1234, 5] })
      (fun t => t.e[4] == 0x1234#64 && t.entropy == words [5]) = true := by decide +kernel
/-- With a port that delivers zero for ever FRAND does not complete (93_implementation_defined.md U7). -/
theorem test_frand_dead_port :
    ends (exec (.frand 4) { st [] [] with entropyDead := true, inflight := some 0x1940_0000_0000_0000#64 })
      (fun t => t.busy && !t.done) = true := by decide +kernel

/-! ## Basis Builder and Radix Converter (sections 2.3, 2.4) -/

theorem test_basis : ends (exec (.basis 5 3#32) (st [0, 0, 0, 0, 0, 0x0800] []))
    (fun t => t.basisM == 3 && t.basis == words [0x88AD, 0x0732, 0x0001] &&
      t.comb == words [0x0000, 0x0001, 0x0732, 0x0733, 0x88AD, 0x88AC, 0x8F9F, 0x8F9E] &&
      t.sub == words [0x0000, 0x0732, 0x88AD, 0x8F9F]) = true := by decide +kernel
theorem test_basis_errors :
    fails (exec (.basis 5 17#32) (st64 [0, 0, 0, 0, 0, 0x0800] [])) 0x12#8 0 17 = true ∧
    fails (exec (.basis 5 0#32) (st [] [])) 0x12#8 0 0 = true ∧
    fails (exec (.basis 5 3#32) (st [0, 0, 0, 0, 0, 0x2800] [])) 0x01#8 0 0 = true := by decide +kernel
theorem test_radix : ends (exec (.radix 0) (st [] [[1, 2, 3, 4, 5, 6, 7, 8]]))
    (fun t => t.buf 0 == words [1, 9, 6, 3, 13, 9, 15, 8]) = true := by decide +kernel
theorem test_radix_errors :
    fails (exec (.radix 0) (st [] [[1, 2, 3]])) 0x02#8 1 3 = true ∧ fails (exec (.radix 0) (st [] [])) 0x02#8 1 0 = true := by
  decide +kernel
theorem test_iradix : ends (exec (.iradix 0) (st [] [[1, 2, 3, 4, 5, 6, 7, 8]]))
    (fun t => t.buf 0 == words [1, 4, 6, 11, 13, 1, 15, 8]) = true := by decide +kernel
theorem test_iradix_length_one : ends (exec (.iradix 0) (st [] [[9]])) (fun t => t.buf 0 == words [9] && t.done) = true := by
  decide +kernel

/-! ## Transforms (section 2.5) -/

theorem test_fft : ends (exec (.fft 0) (withBasis3 (st [] [[1, 2, 3, 4, 5, 6, 7, 8]])))
    (fun t => t.buf 0 == words [0x0001, 0x0008, 0x37F3, 0x37F9, 0xDA63, 0xEAA5, 0x0679, 0x36B4]) = true := by decide +kernel
theorem test_fft_errors :
    fails (exec (.fft 0) (st [] [[1, 2, 3, 4, 5, 6, 7, 8]])) 0x11#8 0 0 = true ∧
    fails (exec (.fft 0) (withBasis3 (st [] [[1, 2, 3, 4]]))) 0x02#8 2 4 = true := by decide +kernel
theorem test_ifft : ends (exec (.ifft 0) (withBasis3 (st [] [[1, 2, 3, 4, 5, 6, 7, 8]])))
    (fun t => t.buf 0 == words [0x0001, 0x2997, 0x6E76, 0x5EBA, 0x3C00, 0x7BEE, 0x5EBE, 0x0008]) = true := by decide +kernel
theorem test_fftl : ends (exec (.fftl 0) (withBasis3 (st [] [[1, 2, 3, 4, 5, 6, 7, 8]])))
    (fun t => t.buf 0 == words [0x0001, 0x0003, 0x12AE, 0x12A8, 0xB99B, 0x9CC7, 0xC27D, 0xE72D]) = true := by decide +kernel
theorem test_ifftl : ends (exec (.ifftl 0) (withBasis3 (st [] [[1, 2, 3, 4, 5, 6, 7, 8]])))
    (fun t => t.buf 0 == words [0x0001, 0x0003, 0x159C, 0x0004, 0x3C08, 0x2558, 0x5EB6, 0x0008]) = true := by decide +kernel
theorem test_fftp_interleaved :
    ends (exec (.fftp 0) { withBasis3 (st [] [[1, 2, 3, 4, 5, 6, 7, 8]]) with
        turns := [.worker1, .worker0, .worker1, .worker1, .worker0] })
      (fun t => t.buf 0 == words [0x0001, 0x0008, 0x37F3, 0x37F9, 0xDA63, 0xEAA5, 0x0679, 0x36B4]) = true := by decide +kernel
theorem test_ifftp_interleaved :
    ends (exec (.ifftp 0) { withBasis3 (st [] [[1, 2, 3, 4, 5, 6, 7, 8]]) with turns := [.worker1, .worker1, .worker0] })
      (fun t => t.buf 0 == words [0x0001, 0x2997, 0x6E76, 0x5EBA, 0x3C00, 0x7BEE, 0x5EBE, 0x0008]) = true := by decide +kernel

/-! ## Polynomial Engine (section 2.6) -/

theorem test_eval : ends (exec (.eval 2 0 1) (st [0, 0x0732] [[1, 2, 3, 4]])) (fun t => t.e[2] == 0x0734#64) = true := by
  decide +kernel
theorem test_eval_into_point : ends (exec (.eval 1 0 1) (st [0, 0x8000] [[0x1234, 0xABCD, 0xFFFF]]))
    (fun t => t.e[1] == 0xE6DC#64) = true := by decide +kernel
theorem test_pmuln : ends (exec (.pmuln 2 0 1) (st [] [[0x1234, 0xABCD, 1], [0xFFFF, 2]]))
    (fun t => t.buf 2 == words [0x510A, 0x0A2F, 0xA84E, 0x0002]) = true := by decide +kernel
theorem test_pmuln_in_place : ends (exec (.pmuln 0 0 0) (st [] [[1, 1]])) (fun t => t.buf 0 == words [1, 0, 1]) = true := by
  decide +kernel
theorem test_pmul : ends (exec (.pmul 2 0 1) (withBasis3 (st [] [[1, 2, 3, 4], [5, 6, 7, 8, 9]])))
    (fun t => t.buf 2 == words [0x0005, 0x000C, 0x0004, 0x0018, 0x0008, 0x0016, 0x003B, 0x0024]) = true := by decide +kernel
theorem test_pmul_errors :
    fails (exec (.pmul 2 0 1) (withBasis3 (st [] [[1, 2, 3, 4, 5], [5, 6, 7, 8, 9]]))) 0x02#8 4 9 = true ∧
    fails (exec (.pmul 2 0 1) (withBasis3 (st [] [[1, 2, 3, 4, 5, 0, 0, 0, 0], [5]]))) 0x02#8 3 9 = true := by decide +kernel
theorem test_muls : ends (exec (.muls 2 0 1) (st [] [[2, 3, 0, 0x8000], [0x8015, 5, 7, 2]]))
    (fun t => t.buf 2 == words [0x0001, 0x000F, 0x0000, 0x002B]) = true := by decide +kernel
theorem test_muls_error : fails (exec (.muls 2 0 1) (st [] [[2, 3, 0], [0x8015, 5, 7, 2]])) 0x03#8 0 4 = true := by decide +kernel
theorem test_subst : ends (exec (.subst 0 1) (st [0, 0x8000] [[5, 6, 7, 8]]))
    (fun t => t.buf 0 == words [0x0005, 0x007D, 0x477C, 0xA647]) = true := by decide +kernel
theorem test_subst_zero : ends (exec (.subst 0 1) (st [] [[5, 6, 7]])) (fun t => t.buf 0 == words [5, 0, 0]) = true := by
  decide +kernel
theorem test_invs : ends (exec (.invs 0) (st [] [[2, 0, 3, 1]]))
    (fun t => t.buf 0 == words [0x8015, 0x0000, 0xFFE6, 0x0001]) = true := by decide +kernel
theorem test_invs_zeros : ends (exec (.invs 0) (st [] [[0, 0, 0]])) (fun t => t.buf 0 == words [0, 0, 0]) = true := by
  decide +kernel
theorem test_pdiv : ends (exec (.pdiv 2 0 1) (withBasis3 (st [] [[6, 1, 1], [2, 1]])))
    (fun t => t.buf 2 == words [3, 1, 0, 0, 0, 0, 0, 0]) = true := by decide +kernel
theorem test_pdiv_inexact : ends (exec (.pdiv 2 0 1) (withBasis3 (st [] [[7, 1, 1], [2, 1]])))
    (fun t => t.buf 2 == words [0x8016, 0x5F39, 0xB0BB, 0xD848, 0xF303, 0xF994, 0x7CCA, 0x3E65]) = true := by decide +kernel
theorem test_zpoly : ends (exec (.zpoly 1 0) (withBasis3 (st [] [[1, 2, 3, 4, 5, 6]])))
    (fun t => t.buf 1 == words [0x0110, 0x0104, 0x006C, 0x006B, 0x0015, 0x0007, 0x0001]) = true := by decide +kernel
theorem test_zpoly_errors :
    fails (exec (.zpoly 1 0) (withBasis3 (st [] [[1, 2, 3]]))) 0x14#8 0 3 = true ∧
    fails (exec (.zpoly 1 0) (withBasis3 (st [] [[1, 2, 3, 4, 5, 6, 7, 8]]))) 0x02#8 4 9 = true := by decide +kernel

/-! ## Erasure Coder (section 2.7) -/

/-- The codeword of data `[1, 2, 3, 4]` with positions 2 and 3 zeroed, the index list `[2, 3]`, and `k = 2`. -/
def erased (k : Nat) : State :=
  withBasis3 (st [0, 0, 0, 0, k] [[], [0x0001, 0x0004, 0, 0, 0x3D5A, 0x2197, 0x0441, 0x1888], [], [2, 3]])

theorem test_encode : ends (exec (.encode 1 0 2#32) (withBasis3 (st [] [[1, 2, 3, 4]])))
    (fun t => t.buf 1 == words [0x0001, 0x0004, 0x0734, 0x0735, 0x3D5A, 0x2197, 0x0441, 0x1888]) = true := by decide +kernel
theorem test_encode_error : fails (exec (.encode 1 0 2#32) (withBasis3 (st [] [[1, 2, 3]]))) 0x02#8 5 6 = true := by decide +kernel
theorem test_recover : ends (exec (.recover 2 1 3 4 4#32) (erased 2)) (fun t => t.buf 2 == words [1, 2, 3, 4]) = true := by
  decide +kernel
theorem test_recover_errors :
    fails (exec (.recover 2 1 3 4 4#32) (erased 1)) 0x04#8 3 8 = true ∧
    fails (exec (.recover 2 1 3 4 4#32) (erased 0)) 0x04#8 4 0 = true ∧
    fails (exec (.recover 2 1 3 4 7#32) (erased 2)) 0x04#8 5 2 = true ∧
    fails (exec (.recover 2 1 3 4 4#32) ((erased 2).setBuf 3 (words [2, 9]))) 0x04#8 1 1 = true ∧
    fails (exec (.recover 2 1 3 4 4#32) ((erased 2).setBuf 3 (words [4, 9]))) 0x04#8 2 0 = true := by decide +kernel

/-! ## Buffers and the host window (section 2.8) -/

theorem test_nop : ends (exec .nop (st [0, 7] [[1]])) (fun t => t.done && t.e[1] == 7#64 && t.buf 0 == words [1]) = true := by
  decide +kernel
theorem test_resize : ends (exec (.resize 0 8#32) (st [] [[1, 2, 3]])) (fun t => t.buf 0 == words [1, 2, 3, 0, 0, 0, 0, 0]) = true := by
  decide +kernel
theorem test_resize_shrink_and_error :
    ends (exec (.resize 0 2#32) (st [] [[1, 2, 3]])) (fun t => t.buf 0 == words [1, 2]) = true ∧
    fails (exec (.resize 0 65537#32) (st [] [[1, 2, 3]])) 0x13#8 0 65537 = true := by decide +kernel
theorem test_trim : ends (exec (.trim 2) (st [] [[], [], [3, 1, 0, 0]])) (fun t => t.buf 2 == words [3, 1]) = true := by
  decide +kernel
theorem test_trim_zeros : ends (exec (.trim 2) (st [] [[], [], [0, 0]])) (fun t => t.buf 2 == []) = true := by decide +kernel
theorem test_copy : ends (exec (.copy 1 0) (st [] [[1, 2, 3], [9, 9, 9, 9, 9]])) (fun t => t.buf 1 == words [1, 2, 3]) = true := by
  decide +kernel

theorem test_constants : State.reset.window 0x000 = some 0x4746_434F_5245_0001#64 ∧
    State.reset.window 0x006 = some 0x0000_0000_1008_1010#64 := by decide +kernel
theorem test_narrow_store : ((State.reset.hostWrite 0x013 0xFFFF_FFFF_FFFF_1234#64).hostRead 0x013).rdata = 0x1234#64 := by
  decide +kernel
theorem test_element_write :
    ((((st [] [[0, 0, 0, 0]]).hostWrite 0x100003 7#64).hostWrite 0x100004 9#64).buf 0) = words [0, 0, 0, 7] ∧
    (((st [] [[0, 0, 0, 0]]).hostWrite 0x100003 7#64).hostWrite 0x100004 9#64).buserr = true := by decide +kernel
theorem test_unmapped_reads :
    ([0x7, 0xF, 0x28, 0x50, 0x28000, 0xFFFFF, 0x180000].all fun off => (State.reset.hostRead off).buserr) = true ∧
    (State.reset.hostRead 0x003).buserr = false := by decide +kernel
theorem test_table_reads :
    (withBasis3 State.reset).window 0x042 = some 1#64 ∧ (withBasis3 State.reset).window 0x043 = none ∧
    (withBasis3 State.reset).window 0x10007 = some 0x8F9E#64 ∧ (withBasis3 State.reset).window 0x10008 = none ∧
    (withBasis3 State.reset).window 0x20003 = some 0x8F9F#64 ∧ (withBasis3 State.reset).window 0x20004 = none := by
  decide +kernel
theorem test_status_after_error :
    ends (exec (.radix 0) (st [] [[1, 2, 3]])) (fun t => t.statusWord == 0x206#64 &&
      (t.hostWrite 0x002 2#64).statusWord == 0x204#64 && (t.hostWrite 0x002 6#64).statusWord == 0#64 &&
      (t.hostWrite 0x002 4#64).errcmd == 0#64) = true := by decide +kernel
theorem test_ctrl_reserved_bits : (State.reset.hostWrite 0x001 0x7FFF_FFFF_FFFF_FFFE#64).ctrlWord = 0x6#64 := by decide +kernel
theorem test_bridge_little_endian :
    bridge 0x1000 (.write 0x1018 [0xEF, 0xCD, 0xAB, 0x89, 0x67, 0x45, 0x23, 0x01]) = some (.write 3 0x0123456789ABCDEF#64) ∧
    bridge 0x1000 (.read 0x1019 8) = none := by decide +kernel

/-! ## The step -/

/-- A write of `CMD`, then a read that is held, then the run, then the read: three steps (20_memory.md R69, R75). -/
def issued : State := { st [0, 0x1234, 0xABCD] [] with
  inputs := [.access (.write 0x003 0x1031_2000_0000_0000#64), .access (.read 0x013)] }

theorem test_issue_run_read :
    ends (step issued) (fun t => t.busy && ends (step t) fun u => !u.busy && ends (step u) fun v => v.rdata == 0xB9F9#64) = true := by
  decide +kernel
theorem test_withFetchWord : ends (step (State.reset.withFetchWord 64 0x7000_0000_0000_0002)) (fun t => t.buf 0 == words [0, 0]) = true := by
  decide +kernel
theorem test_illegal_word_runs : fails (step (State.reset.withFetchWord 64 0x1711_2000_0000_0000)) 0x10#8 0 0 = true := by
  decide +kernel
theorem test_dropped_in_error_state :
    ends (step { State.reset with errf := true, inputs := [.access (.write 0x003 0#64)] })
      (fun t => t.cmddrop && !t.busy && !t.done) = true := by decide +kernel
theorem test_rst_abandons_command :
    ends (step { st [0, 7] [[1]] with inflight := some 0#64, inputs := [.rst] })
      (fun t => !t.busy && !t.done && t.e[1] == 0#64 && t.buf 0 == []) = true := by decide +kernel

/-! ## Witnesses: the hypotheses of each statement can be met -/

/-- A command in flight with nothing else to do. -/
def running (w : Word) (inputs : List Input) : State := { State.reset with inflight := some w, inputs := inputs }

theorem witness_StepRunsAcceptedCommand :
    decode 0x7000_0000_0000_0008#64 = .ok (.resize 0 8#32) ∧
    (running 0x7000_0000_0000_0008#64 []).inflight = some 0x7000_0000_0000_0008#64 ∧
    (running 0x7000_0000_0000_0008#64 [.idle]).inputs = .idle :: [] ∧
    (running 0x7000_0000_0000_0008#64 [.access (.read 0x020)]).inputs = .access (.read 0x020) :: [] ∧
    heldWhileBusy (.read 0x020) = true ∧
    decode (tableWord 64 0x7000_0000_0000_0008) = .ok (.resize 0 8#32) := by decide +kernel

theorem witness_StepRunsAcceptedCommand_issue :
    decode 0x1031_2000_0000_0000#64 = .ok (.fadd 3 1 2) ∧ issued.busy = false ∧ issued.errf = false ∧
    issued.inputs = .access (.write 0x003 0x1031_2000_0000_0000#64) :: [.access (.read 0x013)] ∧
    heldWhileBusy (.read 0x013) = true := by decide +kernel

theorem witness_DecodeAfterEncode : (Instr.recover 7 6 5 15 0xFFFFFFFF#32).wellFormed = true := by decide

theorem witness_EncodeAfterDecode : decode 0x6176_5F00_FFFF_FFFF#64 = .ok (.recover 7 6 5 15 0xFFFFFFFF#32) := by decide +kernel

/-- The fourth clause, an illegal word, in flight and as the host writes it, and the second clause. -/
theorem witness_IllegalWordsRaiseIllegal :
    decode 0x7300_0000_0000_0000#64 = .error .unassignedOpcode ∧
    (running 0x7300_0000_0000_0000#64 []).inflight = some 0x7300_0000_0000_0000#64 ∧
    { State.reset with inputs := [.access (.write 0x003 0x7300_0000_0000_0000#64)] }.busy = false ∧
    decode 0x1012_3001_0000_0000#64 = .error .fieldNotZero ∧
    0x1012_3001_0000_0000#64 &&& Format.fE3.mask ≠ 0x1000_0000_0000_0000#64 := by decide +kernel

theorem witness_OnlyButterflyCoincidenceIsIllegal : ∀ d b : EReg, Instr.fadd 1 1 1 ≠ .fbfly d d b ∧ Instr.fadd 1 1 1 ≠ .fibfly d d b := by
  simp

/-- Held, dropped, accepted, and leaving the error state. -/
theorem witness_CmdWriteIsHeldDroppedOrAccepted :
    (running 0#64 [.access (.write 0x003 1#64)]).busy = true ∧
    { State.reset with errf := true, inputs := [.access (.write 0x003 1#64)] }.busy = false ∧
    { State.reset with inputs := [.access (.write 0x003 1#64)] }.errf = false ∧
    (4#64).getLsbD 2 = true := by decide +kernel

theorem witness_HeldAccessesWaitForCompletion :
    (running 0#64 [.access (.read 0x005)]).busy = true ∧ (running 0#64 [.access (.write 0x002 0#64)]).busy = true ∧
    (∀ off ∈ [0x000, 0x006, 0x001, 0x002, 0x004, 0x005], Access.read 0x003 ≠ .read off) ∧
    (∀ v, Access.read 0x003 ≠ .write 0x002 v) ∧ (running 0#64 [.access (.read 0x003)]).entropyDead = false ∧
    State.reset.busy = false := by
  refine ⟨by decide, by decide, by decide, ?_, by decide, by decide⟩
  simp

theorem witness_StatusWriteLeavesErrorState : (4#64).getLsbD 2 = true := by decide

theorem witness_WidthChangeClearsElements :
    (1#64).getLsbD 63 = false ∧ (1#64).getLsbD 0 ≠ State.reset.width.toBool ∧ (6#64).getLsbD 0 = State.reset.width.toBool := by
  decide

theorem witness_ResetsLeaveTheResetState :
    (0x8000_0000_0000_0000#64).getLsbD 63 = true ∧
    (running 0#64 [.access (.write 0x001 0x8000_0000_0000_0000#64)]).busy = true ∧
    (running 0#64 [.rst]).inputs = .rst :: [] := by decide

theorem witness_ResetValues : 0x040 ≤ 0x04F ∧ 0x04F < 0x050 ∧ 0x10000 ≤ 0x17FFFF := by decide

/-- A refused and a served read, a refused and a served write, at the boundaries of the map. -/
theorem witness_RefusedAccessesSetBuserr :
    refused State.reset (.read 0x180000) ∧ ¬ refused State.reset (.read 0x01F) ∧ refused State.reset (.write 0x000 1#64) ∧
    ¬ refused State.reset (.write 0x01F 1#64) := by
  simp only [refused, unmapped, beyondSpan, beyondLength, readOnly, tableOffset]
  refine ⟨by omega, ?_, by simp, ?_⟩
  · rintro (h | (⟨i, h⟩ | ⟨i, h⟩ | ⟨i, h⟩) | ⟨b, i, h⟩) <;> omega
  · rintro (h | h | ⟨b, i, h⟩) <;> omega

theorem witness_LengthsAndTablesAreReadOnly :
    (running 0#64 [.access (.read 0x27FFF)]).busy = true ∧ tableOffset 0x27FFF ∧ tableOffset 0x040 ∧ ¬ tableOffset 0x050 := by
  simp [running, State.busy, tableOffset]

theorem witness_ElementsInTheWindow :
    0 < (st [] [[], [], [], [], [], [], [], [5]]).len 7 ∧ (st [] [[], [], [], [], [], [], [], [5]]).len 7 ≤ 65535 ∧
    (running 0#64 [.access (.read 0x17FFFF)]).busy = true := by decide +kernel

theorem witness_InterruptLine : State.reset.window 0x002 = some 0#64 ∧ State.reset.window 0x001 = some 0#64 := by decide +kernel

theorem witness_BridgeForwardsWholeAlignedWords :
    0x1000 % 8 = 0 ∧ (wordBytes 0x0123456789ABCDEF#64).length = 8 ∧
    (∀ k, k < 8 → (wordBytes 0x0123456789ABCDEF#64)[k]? = some ((0x0123456789ABCDEF#64).extractLsb' (8 * k) 8)) ∧
    bridge Config.windowBase (.read 0 4) = none ∧
    bridge Config.windowBase (.read Config.windowBase 8) = some (.read 0) ∧ heldWhileBusy (.read 0) = false ∧
    bridge Config.windowBase (.read (Config.windowBase + 8 * 3) 8) = some (.read 3) ∧ heldWhileBusy (.read 3) = true ∧
    (running 0#64 [.bus (.read Config.windowBase 8)]).busy = true := by
  refine ⟨by decide, by decide, by decide, by simp [bridge, bridgeForwards], ?_, by decide, ?_, by decide, rfl⟩ <;>
    simp [bridge, bridgeForwards, Config.windowBase]

/-- A soft reset, and the reset input with a command in flight. -/
theorem witness_ParametersAndConstantsSurviveReset :
    (0x8000_0000_0000_0000#64).getLsbD 63 = true ∧ (running 1#64 [.rst]).inputs = .rst :: [] ∧
    step (running 0#64 []) = .next (running 0#64 []).complete := ⟨by decide, rfl, rfl⟩

/-- A block with other polynomials: GF(2^16) by x^16 + x^12 + x^3 + x + 1, where 2 times 0x8000 is 0x100B (R6, R122). -/
theorem test_other_polynomial :
    ends (exec (.fmul 3 1 2) { st [0, 2, 0x8000] [] with params := ⟨0x1100B#17, 0x1000000000000001B#65⟩ })
      (fun t => t.e[3] == 0x100B#64) = true := by decide +kernel

/-- A command that ends in the error state: FFT without a basis. -/
theorem witness_ErrorsArePrecise :
    ∃ t, step (running 0x4000_0000_0000_0000#64 []) = .next t ∧ t.errf = true :=
  ⟨(running 0x4000_0000_0000_0000#64 []).fail 0x4000_0000_0000_0000#64 .noBasis 0#8 0, rfl, rfl⟩

theorem witness_OnlyListedErrors : ∃ t, exec (.fft 0) State.reset = .next t ∧ State.reset.errf = false ∧ t.errf = true :=
  ⟨State.reset.fail (encode (.fft 0)) .noBasis 0#8 0, rfl, rfl, rfl⟩

theorem witness_EveryCommandCompletes : (∀ d, Instr.nop ≠ .frand d) ∧ State.reset.entropyDead = false := by simp [State.reset]

/-- The three clauses: no basis and a command that needs one; one that needs none and fails; a basis and a failure. -/
theorem witness_TransformsNeedABasis :
    State.reset.basisM = 0 ∧ needsBasis (.recover 0 0 0 0 0#32) = true ∧ needsBasis (.radix 0) = false ∧
    fails (exec (.radix 0) State.reset) 0x02#8 1 0 = true ∧ (withBasis3 State.reset).basisM ≠ 0 ∧
    fails (exec (.fft 0) (withBasis3 State.reset)) 0x02#8 2 0 = true := by decide +kernel

theorem witness_CommandsKeepControlAndTables : ∃ t, exec .nop State.reset = .next t ∧ ∀ a m, Instr.nop ≠ .basis a m :=
  ⟨State.reset.complete, rfl, by simp⟩

theorem witness_StatusFlagsDoNotInfluence : ∃ t, exec (.radix 0) State.reset = .next t :=
  ⟨State.reset.fail (encode (.radix 0)) .length 1#8 0, rfl⟩

/-- Elements of a listed buffer, checked one by one. -/
theorem all_of {f : Word → Prop} {p : List Word} (d : ∀ w, Decidable (f w)) (h : p.all (fun w => @decide (f w) (d w)) = true) :
    ∀ w ∈ p, f w := fun w hw => by simpa using List.all_eq_true.mp h w hw

theorem elems {n : Nat} {p : List Word} (h : p.all (fun w => decide (w.toNat < 2 ^ n)) = true) : ∀ w ∈ p, IsElem n w :=
  all_of (f := fun w => w.toNat < 2 ^ n) (fun _ => inferInstance) h

theorem fieldOk_gf16 : FieldOk GF.gf16 := ⟨by decide +kernel, by decide +kernel⟩
theorem fieldOk_gf64 : FieldOk GF.gf64 := ⟨by decide +kernel, by decide +kernel⟩

theorem witness_MultipliersAgree : FieldOk GF.gf64 ∧ IsElem GF.gf64.n 0xFFFF_FFFF_FFFF_FFFF#64 ∧ IsElem GF.gf16.n 0xFFFF#64 :=
  ⟨fieldOk_gf64, by unfold IsElem; decide +kernel, by unfold IsElem; decide +kernel⟩

theorem witness_InverseInverts :
    (Params.field Config.defaults .gf16).Irreducible ∧ IsElem Width.gf16.bits 0xFFFF#64 ∧ (0xFFFF#64 : Word) ≠ 0#64 :=
  ⟨gf16_irreducible, by unfold IsElem; decide +kernel, by decide⟩

theorem witness_MultiplicationLaws : FieldOk GF.gf16 ∧ IsElem GF.gf16.n 2#64 ∧ IsElem GF.gf16.n 3#64 ∧ IsElem GF.gf16.n 0xFFFF#64 :=
  ⟨fieldOk_gf16, by unfold IsElem; decide +kernel, by unfold IsElem; decide +kernel, by unfold IsElem; decide +kernel⟩

theorem witness_ButterflyCommands : (1 : EReg) ≠ 2 := by decide

theorem witness_ButterfliesUndoEachOther :
    (1 : EReg) ≠ 2 ∧ (3 : EReg) ≠ 1 ∧ (3 : EReg) ≠ 2 ∧ IsElem (st [0, 0x1234, 0xFFFF, 3] []).width.bits (st [0, 0x1234, 0xFFFF, 3] []).e[1] ∧
    IsElem (st [0, 0x1234, 0xFFFF, 3] []).width.bits (st [0, 0x1234, 0xFFFF, 3] []).e[2] := by
  simp only [IsElem]
  decide +kernel

/-- A pending word after rejected ones; none and a live port; none and a dead port. -/
theorem witness_RandomDrawIsNonzero :
    words [0, 0x10000, 0x1234, 5] = words [0, 0x10000] ++ 0x1234#64 :: words [5] ∧
    (∀ z ∈ words [0, 0x10000], narrow .gf16 z = 0#64) ∧ narrow .gf16 0x1234#64 ≠ 0#64 ∧
    (∀ z ∈ State.reset.entropy, narrow .gf16 z = 0#64) ∧ State.reset.entropyDead = false ∧
    { State.reset with entropyDead := true }.entropyDead = true :=
  ⟨by decide, all_of (fun _ => inferInstance) (by decide +kernel), by decide, by simp [State.reset], rfl, rfl⟩

/-- The three clauses, at the ends of the span's range. -/
theorem witness_BasisCommandBuildsTables :
    (0#32).toNat < 1 ∧ min State.reset.width.bits 16 < (17#32).toNat ∧ (16#32).toNat ≤ min State.reset.width.bits 16 ∧
    towerAt State.reset.field (reg State.reset 0) (State.reset.width.bits - 1) ≠ 1#64 ∧
    towerAt State.reset.field (reg (st [0x0800] []) 0) ((st [0x0800] []).width.bits - 1) = 1#64 := by decide +kernel

theorem hasBasis_withBasis3 (e : List Nat) (bufs : List (List Nat)) : (withBasis3 (st e bufs)).HasBasis := by
  refine ⟨by simp [withBasis3, State.setBasis], by simp [withBasis3, st, State.reset, State.field, State.setBasis, Params.field, Config.defaults, Config.mMax],
    0x0800#64, by simp [IsElem, withBasis3, st, State.reset, State.field, State.setBasis, Params.field, Config.defaults], ?_, ?_, ?_, ?_⟩
  · change (tower GF.gf16 0x0800#64).getLast? = some 1#64
    decide +kernel
  · change words [0x88AD, 0x0732, 0x0001] = retained GF.gf16 0x0800#64 3
    decide +kernel
  · change words [0x0000, 0x0001, 0x0732, 0x0733, 0x88AD, 0x88AC, 0x8F9F, 0x8F9E] = combinations (words [0x88AD, 0x0732, 0x0001]) 3
    decide +kernel
  · change words [0x0000, 0x0732, 0x88AD, 0x8F9F] =
      evens (words [0x0000, 0x0001, 0x0732, 0x0733, 0x88AD, 0x88AC, 0x8F9F, 0x8F9E])
    decide +kernel

theorem witness_ActiveBasisFacts : (withBasis3 State.reset).HasBasis :=
  hasBasis_withBasis3 [] []

theorem witness_RadixCommands :
    (∀ m, (st [] [[1, 2, 3]]).len 0 ≠ 2 ^ m) ∧ (st [] [[7]]).len 0 = 2 ^ 0 ∧ (∀ m, State.reset.len 0 ≠ 2 ^ m) := by
  refine ⟨fun m h => ?_, by decide +kernel, fun m h => ?_⟩
  · have h3 : (st [] [[1, 2, 3]]).len 0 = 3 := by decide +kernel
    rw [h3] at h
    match m with
    | 0 => omega
    | 1 => omega
    | k + 2 => rw [Nat.pow_add] at h; omega
  · have h0 : State.reset.len 0 = 0 := by decide +kernel
    rw [h0] at h
    exact absurd h.symm (Nat.two_pow_pos m).ne'

theorem witness_RadixConversionsInvert : (words [1, 2, 3, 4, 5, 6, 7, 8]).length = 2 ^ 3 := by decide

/-- Each error and the success of the six transforms. -/
theorem witness_SequentialTransforms :
    (st [] [[1, 2]]).basisM = 0 ∧ (withBasis3 (st [] [[1, 2]])).basisM ≠ 0 ∧
    (withBasis3 (st [] [[1, 2]])).len 0 ≠ 2 ^ (withBasis3 (st [] [[1, 2]])).basisM ∧
    Fits (withBasis3 (st [] [[1, 2, 3, 4, 5, 6, 7, 8]])) 0 ∧ SubFits (withBasis3 (st [] [[1, 2, 3, 4, 5, 6, 7, 8]])) := by
  simp only [Fits, SubFits]
  decide +kernel

/-- The same hypotheses for the concurrent transforms. -/
theorem witness_ConcurrentTransformsAgree :
    Fits (withBasis3 (st [] [[1, 2, 3, 4, 5, 6, 7, 8]])) 0 ∧ SubFits (withBasis3 (st [] [[1, 2, 3, 4, 5, 6, 7, 8]])) ∧
    (withBasis3 (st [] [[1, 2]])).len 0 ≠ 2 ^ (withBasis3 (st [] [[1, 2]])).basisM :=
  ⟨witness_SequentialTransforms.2.2.2.1, witness_SequentialTransforms.2.2.2.2, witness_SequentialTransforms.2.2.1⟩

theorem witness_TransformsInvert : 1 ≤ 1 ∧ (words [5, 9]).length = 2 ^ 1 := by decide

theorem witness_TransformEvaluates :
    (withBasis3 State.reset).HasBasis ∧ (words [1, 2, 3, 4, 5, 6, 7, 8]).length = 2 ^ (withBasis3 State.reset).basisM ∧
    ∀ w ∈ words [1, 2, 3, 4, 5, 6, 7, 8], IsElem (withBasis3 State.reset).field.n w := by
  exact ⟨hasBasis_withBasis3 [] [], by decide, elems (by decide +kernel)⟩

theorem witness_EvaluationCommand : FieldOk GF.gf16 ∧ ∀ w ∈ words [1, 2, 0xFFFF], IsElem GF.gf16.n w := by
  exact ⟨fieldOk_gf16, elems (by decide +kernel)⟩

/-- The capacity error, an empty operand, an ordinary product. -/
theorem witness_SchoolbookProductCommand :
    (∃ s : State, s.len 0 ≠ 0 ∧ s.len 1 ≠ 0 ∧ 65536 < s.len 0 + s.len 1 - 1) ∧
    (State.reset.len 0 = 0 ∨ State.reset.len 1 = 0) ∧
    ((st [] [[1], [2]]).len 0 ≠ 0 ∧ (st [] [[1], [2]]).len 1 ≠ 0 ∧ (st [] [[1], [2]]).len 0 + (st [] [[1], [2]]).len 1 - 1 ≤ 65536) := by
  refine ⟨⟨(State.reset.setBuf 0 (zeros 65536)).setBuf 1 (zeros 2), ?_⟩, by decide +kernel, by decide +kernel⟩
  simp [State.len, State.setBuf_buf]

theorem witness_ElementwiseProductAndSubstitution :
    (st [] [[1], []]).len 0 ≠ (st [] [[1], []]).len 1 ∧ State.reset.len 0 = State.reset.len 1 := by decide +kernel

theorem witness_BatchInversionIsElementwise :
    (st [] [[2, 0, 0xFFFF]]).field.Irreducible ∧ (Params.field Config.defaults .gf16).Irreducible ∧
    (st [] [[2, 0, 0xFFFF]]).BufElems 0 ∧ (∀ w ∈ words [2, 0, 0xFFFF], IsElem Width.gf16.bits w) ∧
    0 < (words [2, 0, 0xFFFF]).length ∧ at' (words [2, 0, 0xFFFF]) 0 ≠ 0#64 ∧ at' (words [2, 0, 0xFFFF]) 1 = 0#64 := by
  exact ⟨gf16_irreducible, gf16_irreducible, elems (by decide +kernel), elems (by decide +kernel), by decide, by decide, by decide⟩

theorem isDegree_of_last {p : List Word} {c : Word} (hc : c ≠ 0#64) : IsDegree (p ++ [c]) p.length := by
  refine .inr ⟨p.length, rfl, ?_, fun i hi => ?_⟩
  · simpa [at'] using hc
  · rw [at', List.getD_eq_default]
    simp
    omega

/-- Each of the four errors, and the success. -/
theorem witness_TransformProductCommand :
    (withBasis3 (st [] [[1, 2, 3, 4, 5, 6, 7, 8, 9], [1]])).len 0 > 2 ^ 3 ∧
    (withBasis3 (st [] [[1], [1, 2, 3, 4, 5, 6, 7, 8, 9]])).len 1 > 2 ^ 3 ∧
    IsDegree (words [1, 2, 3, 4, 5]) (4 : Nat) ∧ (2 ^ 3 : Int) < 4 + 4 + 1 ∧
    IsDegree (words [1, 2, 3, 4]) (3 : Nat) ∧ (4 + 3 + 1 : Int) ≤ 2 ^ 3 ∧
    SubFits (withBasis3 (st [] [[1, 2, 3, 4], [1, 2, 3, 4, 5]])) := by
  refine ⟨by decide +kernel, by decide +kernel, ?_, by decide, ?_, by decide, by simp only [SubFits]; decide +kernel⟩
  · exact isDegree_of_last (p := words [1, 2, 3, 4]) (c := 5#64) (by decide)
  · exact isDegree_of_last (p := words [1, 2, 3]) (c := 4#64) (by decide)

theorem witness_TransformProductIsTheProduct :
    (withBasis3 State.reset).HasBasis ∧ (∀ w ∈ words [1, 2], IsElem (withBasis3 State.reset).field.n w) ∧
    (words [1, 2]).length ≤ 2 ^ (withBasis3 State.reset).basisM ∧ IsTrim (words [1, 2]) (words [1, 2]) ∧
    (words [1, 2]).length + (words [1, 2]).length ≤ 2 ^ (withBasis3 State.reset).basisM + 1 := by
  refine ⟨hasBasis_withBasis3 [] [], elems (by decide +kernel), by decide, ⟨(1 : Nat), ?_, by decide⟩, by decide⟩
  exact isDegree_of_last (p := words [1]) (c := 2#64) (by decide)

/-- Both errors, and the two success clauses, the second at a zero divisor. -/
theorem witness_PerfectDivisionCommand :
    (withBasis3 (st [] [[1, 2, 3, 4, 5, 6, 7, 8, 9], [1]])).len 0 > 2 ^ 3 ∧
    (withBasis3 (st [] [[1], [1, 2, 3, 4, 5, 6, 7, 8, 9]])).len 1 > 2 ^ 3 ∧
    (withBasis3 (st [] [[6, 1, 1], [2, 1]])).field.Irreducible ∧
    (withBasis3 (st [] [[6, 1, 1], [2, 1]])).HasBasis ∧ (withBasis3 (st [] [[6, 1, 1], [2, 1]])).BufElems 1 ∧
    (withBasis3 (st [] [[6, 1, 1], [2, 1]])).len 0 ≤ 2 ^ 3 ∧
    (withBasis3 (st [] [[6, 1, 1], [0, 0]])).HasBasis ∧ ∀ w ∈ (withBasis3 (st [] [[6, 1, 1], [0, 0]])).buf 1, w = 0#64 := by
  refine ⟨by decide +kernel, by decide +kernel, gf16_irreducible, hasBasis_withBasis3 _ _, elems (by decide +kernel), by decide +kernel,
    hasBasis_withBasis3 _ _, all_of (fun _ => inferInstance) (by decide +kernel)⟩

/-- The division of R211: `(x + 2)(x + 3)` by `x + 2`. -/
theorem witness_PerfectDivisionGivesTheQuotient :
    (withBasis3 State.reset).field.Irreducible ∧ (withBasis3 State.reset).HasBasis ∧ (∀ w ∈ words [2, 1], IsElem (withBasis3 State.reset).field.n w) ∧
    (∀ w ∈ words [3, 1], IsElem (withBasis3 State.reset).field.n w) ∧ words [2, 1] ≠ [] ∧ (words [2, 1]).length ≤ 2 ^ 3 ∧
    (convLoops GF.gf16 (words [3, 1]) (words [2, 1])).length ≤ 2 ^ 3 ∧
    ∀ t, t < 2 ^ 3 → evalLoop GF.gf16 (words [2, 1]) (at' (withBasis3 State.reset).comb t) ≠ 0#64 := by
  exact ⟨gf16_irreducible, hasBasis_withBasis3 [] [], elems (by decide +kernel), elems (by decide +kernel), by decide, by decide,
    by decide +kernel,
    by decide +kernel⟩

/-- Each error, and the success at the largest list that fits. -/
theorem witness_VanishingPolynomialCommand :
    (withBasis3 State.reset).len 0 = 0 ∧ (withBasis3 (st [] [[1, 2, 3]])).len 0 % 2 = 1 ∧
    2 ^ 3 < (withBasis3 (st [] [[1, 2, 3, 4, 5, 6, 7, 8]])).len 0 + 1 ∧
    (withBasis3 (st [] [[1, 2, 3, 4, 5, 6]])).basisM ≠ 0 ∧ (withBasis3 (st [] [[1, 2, 3, 4, 5, 6]])).len 0 + 1 ≤ 2 ^ 3 ∧
    FieldOk GF.gf16 ∧ ∀ x ∈ words [2, 3], IsElem GF.gf16.n x := by
  refine ⟨by decide +kernel, by decide +kernel, by decide +kernel, by decide +kernel, by decide +kernel, fieldOk_gf16,
    elems (by decide +kernel)⟩

theorem witness_EncodeCommand :
    (st [] [[1, 2, 3, 4]]).basisM = 0 ∧ (withBasis3 (st [] [[1, 2, 3]])).len 0 * (2#32).toNat ≠ 2 ^ 3 ∧
    (withBasis3 (st [] [[1, 2, 3, 4]])).len 0 * (2#32).toNat = 2 ^ 3 ∧ SubFits (withBasis3 (st [] [[1, 2, 3, 4]])) := by
  simp only [SubFits]
  decide +kernel

theorem isTrim_of_last {p : List Word} {c : Word} {k : Nat} (hc : c ≠ 0#64) :
    IsTrim ((p ++ [c]) ++ List.replicate k 0#64) (p ++ [c]) := by
  refine ⟨p.length, .inr ⟨p.length, rfl, ?_, fun i hi => ?_⟩, ?_⟩
  · simpa [at'] using hc
  · simp only [at', List.getD_eq_getElem?_getD]
    rw [List.getElem?_append_right (by simp; omega)]
    rcases Nat.lt_or_ge (i - (p ++ [c]).length) k with h | h
    · rw [List.getElem?_replicate, if_pos h]; rfl
    · rw [List.getElem?_replicate, if_neg (by omega)]; rfl
  · have h1 : ((p.length : Int) + 1).toNat = (p ++ [c]).length := by
      rw [List.length_append, List.length_singleton]
      omega
    rw [h1, List.take_left]

/-- The errors before the index list. -/
theorem witness_RecoverCommand_lengths :
    State.reset.basisM = 0 ∧ (withBasis3 (st [] [[1, 2]])).len 0 ≠ 2 ^ 3 ∧
    (withBasis3 (st [] [[1, 2, 3, 4, 5, 6, 7, 8], []])).len 1 = 0 ∧
    2 ^ 3 < (withBasis3 (st [] [[], [0, 1, 2, 3, 4, 5, 6, 7]])).len 1 + 1 ∧ 2 ^ 3 < (erased 2).len 3 + (7#32).toNat := by
  decide +kernel

/-- The errors on the list: the first position good, the second out of range, or naming a slot that is not 0. -/
theorem witness_RecoverCommand_slots :
    RecoverLengths ((erased 2).setBuf 3 (words [2, 9])) 1 3 4 ∧
    SlotErased ((erased 2).setBuf 3 (words [2, 9])) 1 3 0 ∧ 2 ^ 3 ≤ (at' (((erased 2).setBuf 3 (words [2, 9])).buf 3) 1).toNat ∧
    SlotErased ((erased 2).setBuf 3 (words [2, 4])) 1 3 0 ∧
    at' (((erased 2).setBuf 3 (words [2, 4])).buf 1) (at' (((erased 2).setBuf 3 (words [2, 4])).buf 3) 1).toNat ≠ 0#64 := by
  simp only [RecoverLengths, SlotErased]
  decide +kernel

/-- The checks pass: with `k = 0`, with a bad `k`, and with a good one. -/
theorem witness_RecoverCommand_steps :
    RecoverLengths (erased 2) 1 3 4 ∧ (erased 2).field.Irreducible ∧ (erased 2).HasBasis ∧ (∀ u, u < (erased 2).len 3 → SlotErased (erased 2) 1 3 u) ∧
    reg (erased 0) 4 = 0#64 ∧ reg (erased 2) 4 ≠ 0#64 ∧
    IsTrim (recoverQuotientLoops GF.gf16 3 (erased 2).comb (erased 2).sub ((erased 2).buf 1) ((erased 2).buf 3) 2#64)
      (words [0x0001, 0x0004, 0x000C, 0x0020]) ∧
    IsTrim (recoverQuotientLoops GF.gf16 3 (erased 1).comb (erased 1).sub ((erased 1).buf 1) ((erased 1).buf 3) 1#64)
      (words [1, 4, 2, 2, 1, 6, 7, 1]) := by
  refine ⟨by simp only [RecoverLengths]; decide +kernel, gf16_irreducible, hasBasis_withBasis3 _ _,
    by simp only [SlotErased]; decide +kernel, by decide +kernel, by decide +kernel, ?_, ?_⟩
  · have h : recoverQuotientLoops GF.gf16 3 (erased 2).comb (erased 2).sub ((erased 2).buf 1) ((erased 2).buf 3) 2#64 =
        (words [0x0001, 0x0004, 0x000C] ++ [0x0020#64]) ++ List.replicate 4 0#64 := by decide +kernel
    rw [h]
    exact isTrim_of_last (by decide)
  · have h : recoverQuotientLoops GF.gf16 3 (erased 1).comb (erased 1).sub ((erased 1).buf 1) ((erased 1).buf 3) 1#64 =
        (words [1, 4, 2, 2, 1, 6, 7] ++ [1#64]) ++ List.replicate 0 0#64 := by decide +kernel
    rw [h]
    exact isTrim_of_last (by decide)

/-- The worked example of R231, with `k = 2`, which is not bad. -/
theorem witness_RecoveryIsExactOrRefused :
    (erased 2).field.Irreducible ∧ (erased 2).HasBasis ∧ RecoverLengths (erased 2) 1 3 (4#32).toNat ∧
    (∀ u, u < (erased 2).len 3 → SlotErased (erased 2) 1 3 u) ∧ reg (erased 2) 4 ≠ 0#64 ∧
    (words [1, 2, 3, 4]).length = (4#32).toNat ∧ (∀ w ∈ words [1, 2, 3, 4], IsElem (erased 2).field.n w) ∧
    (∀ t, t < 2 ^ (erased 2).basisM → (∀ u, u < (erased 2).len 3 → (at' ((erased 2).buf 3) u).toNat ≠ t) →
      at' ((erased 2).buf 1) t = evalLoop (erased 2).field (words [1, 2, 3, 4]) (at' (erased 2).comb t)) ∧
    (∀ u, u < (erased 2).len 3 → ∀ y ∈ (erased 2).comb,
      at' (erased 2).comb (at' ((erased 2).buf 3) u).toNat ≠ (erased 2).field.mul (reg (erased 2) 4) y) := by
  refine ⟨gf16_irreducible, hasBasis_withBasis3 _ _, by simp only [RecoverLengths]; decide +kernel, by simp only [SlotErased]; decide +kernel,
    by decide +kernel, by decide, elems (by decide +kernel), by decide +kernel, fun u hu => ?_⟩
  have hu : u < 2 := hu
  refine all_of (fun _ => inferInstance) ?_
  interval_cases u <;> decide +kernel

theorem witness_BufferCommands : 65536 < (65537#32).toNat ∧ (65536#32).toNat ≤ 65536 := by decide

/-- The premise of the invariant's statement, in a state with a command in flight. -/
theorem witness_StepKeepsTheInvariant :
    (running 0#64 []).Inv ∧ step (running 0#64 []) = .next (running 0#64 []).complete := by
  refine ⟨⟨State.reset_wf, fun i => ?_, ?_, ?_, ?_, ?_, ?_, ?_⟩, rfl⟩ <;>
    simp [running, State.reset, IsElem, State.field, Params.field, Config.defaults, State.busy]

end Sys2Proof.Tests
end

/-!
PROOFS. The invariant of 10_state.md R40: the field functions answer elements of the field, the list functions keep lists of
elements and do not lengthen them, every update of the state keeps the invariant, and so does every step.
-/

namespace Sys2Proof.Machine

/-! ## Elements of a field (R9, R22) -/

/-- An element has no bit at or above `n`. -/
theorem isElem_iff_getLsbD {n : Nat} {w : Word} : IsElem n w ↔ ∀ i, n ≤ i → w.getLsbD i = false := by
  refine ⟨fun h i hi => ?_, fun h => ?_⟩
  · exact Nat.testBit_lt_two_pow (Nat.lt_of_lt_of_le h (Nat.pow_le_pow_right (by decide) hi))
  · exact Nat.lt_pow_two_of_testBit _ h

theorem IsElem.zero (n : Nat) : IsElem n 0#64 := Nat.two_pow_pos n

theorem IsElem.one {n : Nat} (h : 1 ≤ n) : IsElem n 1#64 := Nat.one_lt_two_pow (by omega)

theorem IsElem.xor {n : Nat} {v w : Word} (hv : IsElem n v) (hw : IsElem n w) : IsElem n (v ^^^ w) := by
  rw [IsElem, BitVec.toNat_xor]
  exact Nat.xor_lt_two_pow hv hw

theorem IsElem.ite {n : Nat} {c : Prop} [Decidable c] {v w : Word} (hv : IsElem n v) (hw : IsElem n w) :
    IsElem n (if c then v else w) := by
  split
  · exact hv
  · exact hw

/-- The carry-less product of an element has `2n - 1` bits (R123). -/
theorem GF.clmul_getLsbD {F : GF} {a : Word} (ha : IsElem F.n a) (b : Word) (i : Nat) (hi : F.n + (F.n - 1) ≤ i) :
    (F.clmul a b).getLsbD i = false := by
  unfold GF.clmul
  refine List.foldlRecOn (motive := fun c : BitVec 128 => c.getLsbD i = false) _ _ (by simp) fun c hc j hj => ?_
  have hj := List.mem_range.mp hj
  have hz := isElem_iff_getLsbD.mp ha (i - j) (by omega)
  split
  · simp [hc, hz]
  · exact hc

theorem State.fieldOk (s : State) : Reference.FieldOk s.field where
  width := by simpa using s.width.bits_le
  reduced := by
    rw [State.field_n]
    exact s.params.field_red_lt s.width

/-- A butterfly: it turns two elements and an element twiddle into two elements. -/
def KeepsPair (n : Nat) (f : Word → Word → Word → Word × Word) : Prop :=
  ∀ k k2 g, IsElem n k → IsElem n k2 → IsElem n g → IsElem n (f k k2 g).1 ∧ IsElem n (f k k2 g).2

end Sys2Proof.Machine

/-! ## The field functions answer elements (R122 to R127) -/

namespace Sys2Proof.Reference

open Sys2Proof.Machine

variable {F : GF} (hF : FieldOk F)
include hF

/-- `POLY_n` has its top bit at `n` (R6). -/
theorem FieldOk.poly_getLsbD {i : Nat} (hi : F.n ≤ i) : F.poly.getLsbD i = decide (i = F.n) := by
  have hred := isElem_iff_getLsbD.mp hF.reduced i hi
  have hn := hF.width.2
  simp only [GF.poly, BitVec.getLsbD_or, BitVec.getLsbD_shiftLeft, BitVec.getLsbD_setWidth, BitVec.getLsbD_one, hred]
  by_cases h : i = F.n
  · simp [h]
    omega
  · simp [h]
    omega

/-- One turn of the reduction clears the top bit that is left (R123). -/
theorem FieldOk.reduceTurn_getLsbD {t : Nat} (ht : F.n + t < 128) {c : BitVec 128}
    (hc : ∀ i, F.n + (t + 1) ≤ i → c.getLsbD i = false) (i : Nat) (hi : F.n + t ≤ i) :
    (if c.getLsbD (F.n + t) then c ^^^ (F.poly <<< t) else c).getLsbD i = false := by
  have hp := hF.poly_getLsbD (i := i - t) (by omega)
  rcases Nat.eq_or_lt_of_le hi with rfl | hlt
  · cases hb : c.getLsbD (F.n + t) with
    | true => simp only [if_true, BitVec.getLsbD_xor, BitVec.getLsbD_shiftLeft, hb, hp]; simp [ht]
    | false => exact hb
  · have hz := hc i hlt
    have hne : i - t ≠ F.n := by omega
    split
    · simp [hz, hp, hne]
    · exact hz

/-- The reduction leaves an element of any product of `2n - 1` bits (R123). -/
theorem FieldOk.reduce {c : BitVec 128} (hc : ∀ i, F.n + (F.n - 1) ≤ i → c.getLsbD i = false) : IsElem F.n (F.reduce c) := by
  have turns : ∀ k, F.n + k ≤ 128 → ∀ c : BitVec 128, (∀ i, F.n + k ≤ i → c.getLsbD i = false) → ∀ i, F.n ≤ i →
      ((List.range k).foldr (fun t c => if c.getLsbD (F.n + t) then c ^^^ (F.poly <<< t) else c) c).getLsbD i = false := by
    intro k
    induction k with
    | zero => exact fun _ c hc => hc
    | succ k ih =>
      intro hk c hc
      rw [List.range_succ, List.foldr_append]
      exact ih (by omega) _ (hF.reduceTurn_getLsbD (by omega) hc)
  rw [isElem_iff_getLsbD]
  intro i hi
  have hn := hF.width.2
  rw [GF.reduce, BitVec.getLsbD_setWidth, turns _ (by omega) c hc i hi, Bool.and_false]

/-- `mul` answers an element (R123). -/
theorem FieldOk.mul {a : Word} (ha : IsElem F.n a) (b : Word) : IsElem F.n (F.mul a b) := by
  rw [GF.mul_eq]
  exact hF.reduce (GF.clmul_getLsbD ha b)

theorem FieldOk.xtime (a : Word) : IsElem F.n (F.xtime a) :=
  have hcut : IsElem F.n ((a <<< 1) &&& F.mask) := F.and_mask_lt hF.width.2 _
  .ite (hcut.xor hF.reduced) hcut

/-- `mul_naive` answers an element (R122). -/
theorem FieldOk.mulNaive {a : Word} (ha : IsElem F.n a) (b : Word) : IsElem F.n (F.mulNaive a b) := by
  rw [GF.mulNaive_eq]
  refine (List.foldlRecOn (motive := fun s : Word × Word => IsElem F.n s.1 ∧ IsElem F.n s.2) _ _ ⟨.zero _, ha⟩
    fun s ⟨hacc, hs⟩ _ _ => ?_).1
  exact ⟨.ite (hacc.xor hs) hacc, hF.xtime _⟩

/-- `inv` answers an element (R125). -/
theorem FieldOk.inv {a : Word} (ha : IsElem F.n a) : IsElem F.n (F.inv a) := by
  refine (List.foldlRecOn (motive := fun rx : Word × Word => IsElem F.n rx.1 ∧ IsElem F.n rx.2) _ _ ⟨.one hF.width.1, ha⟩
    fun rx ⟨hr, hx⟩ _ _ => ?_).1
  exact ⟨hF.mul hr _, hF.mul hx _⟩

theorem FieldOk.bfly : KeepsPair F.n F.bfly := fun _ k2 _ hk hk2 hg =>
  have h := hk.xor (hF.mul hg k2)
  ⟨h, hk2.xor h⟩

theorem FieldOk.ibfly : KeepsPair F.n F.ibfly := fun _ _ _ hk hk2 hg =>
  ⟨hk.xor (hF.mul hg _), hk2.xor hk⟩

end Sys2Proof.Reference

namespace Sys2Proof.Machine

open Reference (FieldOk)

/-! ## Lists of elements -/

/-- Every word of the list is an element of a field of width `n` (R22). -/
def Elems (n : Nat) (p : List Word) : Prop := ∀ w ∈ p, IsElem n w

@[simp] theorem elems_nil (n : Nat) : Elems n [] := by simp [Elems]

@[simp] theorem elems_cons {n : Nat} {w : Word} {p : List Word} : Elems n (w :: p) ↔ IsElem n w ∧ Elems n p :=
  List.forall_mem_cons

@[simp] theorem elems_append {n : Nat} {p q : List Word} : Elems n (p ++ q) ↔ Elems n p ∧ Elems n q :=
  List.forall_mem_append

theorem Elems.take {n : Nat} {p : List Word} (hp : Elems n p) (k : Nat) : Elems n (p.take k) :=
  fun w hw => hp w (List.mem_of_mem_take hw)

theorem Elems.drop {n : Nat} {p : List Word} (hp : Elems n p) (k : Nat) : Elems n (p.drop k) :=
  fun w hw => hp w (List.mem_of_mem_drop hw)

theorem Elems.map {n : Nat} {α : Type} {f : α → Word} {p : List α} (hf : ∀ w ∈ p, IsElem n (f w)) : Elems n (p.map f) :=
  List.forall_mem_map.mpr hf

theorem Elems.set {n : Nat} {p : List Word} (hp : Elems n p) (i : Nat) {v : Word} (hv : IsElem n v) : Elems n (p.set i v) := by
  intro w hw
  rcases List.mem_or_eq_of_mem_set hw with h | rfl
  · exact hp w h
  · exact hv

/-- An entry of the list, or the 0 that stands for a missing one. -/
theorem Elems.getD {n : Nat} {p : List Word} (hp : Elems n p) (i : Nat) : IsElem n (p.getD i 0#64) := by
  rw [List.getD_eq_getElem?_getD]
  cases h : p[i]? with
  | none => exact .zero n
  | some w => exact hp w (List.mem_of_getElem? h)

theorem elems_zeros (n k : Nat) : Elems n (zeros k) := by
  intro w hw
  rw [List.eq_of_mem_replicate hw]
  exact .zero n

/-- What holds of `f v w` for all entries `v` and `w` of two lists holds of every entry of their combination. -/
theorem forall_mem_zipWith {α : Type} {P : α → Prop} {f : Word → Word → α} {p q : List Word}
    (hf : ∀ v ∈ p, ∀ w ∈ q, P (f v w)) : ∀ x ∈ List.zipWith f p q, P x := by
  intro x hx
  obtain ⟨i, hi, rfl⟩ := List.mem_iff_getElem.mp hx
  rw [List.getElem_zipWith]
  exact hf _ (List.getElem_mem _) _ (List.getElem_mem _)

theorem Elems.xorList {n : Nat} {p q : List Word} (hp : Elems n p) (hq : Elems n q) : Elems n (xorList p q) :=
  forall_mem_zipWith fun v hv w hw => (hp v hv).xor (hq w hw)

theorem Elems.expand {n : Nat} {p : List Word} (hp : Elems n p) (L : Nat) : Elems n (expand p L) :=
  elems_append.mpr ⟨hp, elems_zeros n _⟩

theorem Elems.trim {n : Nat} {p : List Word} (hp : Elems n p) : Elems n (trim p) := hp.take _

theorem Elems.resizeList {n : Nat} {p : List Word} (hp : Elems n p) (len : Nat) : Elems n (resizeList p len) := by
  unfold Machine.resizeList
  split
  · exact elems_append.mpr ⟨hp, elems_zeros n _⟩
  · exact hp.take _

theorem length_resizeList (p : List Word) (len : Nat) : (resizeList p len).length = len := by
  unfold resizeList
  split
  · simp
    omega
  · simp
    omega

/-! ## Functions that keep a buffer's list within its field and its length -/

/-- On lists of elements `f` answers elements, no more of them than it was given. -/
def KeepsBuf (n : Nat) (f : List Word → List Word) : Prop :=
  ∀ p, Elems n p → Elems n (f p) ∧ (f p).length ≤ p.length

theorem KeepsBuf.comp {n : Nat} {f g : List Word → List Word} (hg : KeepsBuf n g) (hf : KeepsBuf n f) :
    KeepsBuf n (fun p => g (f p)) := fun p hp =>
  ⟨(hg _ (hf p hp).1).1, (hg _ (hf p hp).1).2.trans (hf p hp).2⟩

/-- A loop whose every turn keeps the list. -/
theorem KeepsBuf.foldl {n : Nat} {f : List Word → Nat → List Word} (hf : ∀ i, KeepsBuf n (f · i)) (l : List Nat) :
    KeepsBuf n (fun p => l.foldl f p) := fun p hp =>
  List.foldlRecOn (motive := fun q => Elems n q ∧ q.length ≤ p.length) l f ⟨hp, Nat.le_refl _⟩
    fun q ⟨hq, hl⟩ i _ => ⟨(hf i q hq).1, (hf i q hq).2.trans hl⟩

/-- The front and the rest of the list treated apart. -/
theorem KeepsBuf.takeDrop {n : Nat} {f g : List Word → List Word} (hf : KeepsBuf n f) (hg : KeepsBuf n g) (d : Nat) :
    KeepsBuf n (fun p => f (p.take d) ++ g (p.drop d)) := by
  intro p hp
  obtain ⟨hft, hfl⟩ := hf _ (hp.take d)
  obtain ⟨hgd, hgl⟩ := hg _ (hp.drop d)
  refine ⟨elems_append.mpr ⟨hft, hgd⟩, ?_⟩
  calc (f (p.take d) ++ g (p.drop d)).length
      ≤ (p.take d).length + (p.drop d).length := by rw [List.length_append]; exact Nat.add_le_add hfl hgl
    _ = p.length := by rw [← List.length_append, List.take_append_drop]

theorem KeepsBuf.mapBlocks {n : Nat} {f : List Word → List Word} (hf : KeepsBuf n f) (d k : Nat) :
    KeepsBuf n (mapBlocks f d k) := by
  induction k with
  | zero => exact fun p hp => ⟨hp, Nat.le_refl _⟩
  | succ k ih => exact hf.takeDrop ih d

/-! ## The radix conversions and the transforms (42_radix.md, 43_fft.md) -/

theorem Elems.quarter {n : Nat} {p : List Word} (hp : Elems n p) (d4 j : Nat) : Elems n (quarter d4 j p) :=
  (hp.drop _).take _

theorem length_quarter (d4 j : Nat) (p : List Word) : (quarter d4 j p).length = min d4 (p.length - j * d4) := by
  simp [quarter]

theorem radixBlock_keeps (n d4 : Nat) : KeepsBuf n (radixBlock d4) := by
  intro p hp
  have hq := hp.quarter d4
  have h2 := (hq 2).xorList (hq 3)
  refine ⟨by simp only [radixBlock, elems_append]; exact ⟨⟨⟨hq 0, (hq 1).xorList h2⟩, h2⟩, hq 3⟩, ?_⟩
  simp only [radixBlock, List.length_append, length_xorList, length_quarter]
  omega

theorem iradixBlock_keeps (n d4 : Nat) : KeepsBuf n (iradixBlock d4) := by
  intro p hp
  have hq := hp.quarter d4
  refine ⟨by
    simp only [iradixBlock, elems_append]
    exact ⟨⟨⟨hq 0, (hq 1).xorList (hq 2)⟩, (hq 2).xorList (hq 3)⟩, hq 3⟩, ?_⟩
  simp only [iradixBlock, List.length_append, length_xorList, length_quarter]
  omega

theorem radix_keeps (n m : Nat) : KeepsBuf n (radix m) :=
  .foldl (fun _ => (radixBlock_keeps n _).mapBlocks _ _) _

theorem iradix_keeps (n m : Nat) : KeepsBuf n (iradix m) :=
  .foldl (fun _ => (iradixBlock_keeps n _).mapBlocks _ _) _

theorem leafPass_keeps (n m : Nat) : KeepsBuf n (leafPass m) := by
  intro p hp
  refine ⟨elems_append.mpr ⟨hp.take _, (hp.drop _).xorList (hp.take _)⟩, ?_⟩
  simp only [leafPass, List.length_append, length_xorList, List.length_take, List.length_drop]
  omega

theorem mergeBlock_keeps {n : Nat} {f : Word → Word → Word → Word × Word} (hf : KeepsPair n f) (d : Nat) {g : Word}
    (hg : IsElem n g) : KeepsBuf n (mergeBlock f d g) := by
  intro p hp
  have h : ∀ r ∈ List.zipWith (fun k k2 => f k k2 g) (p.take d) (p.drop d), IsElem n r.1 ∧ IsElem n r.2 :=
    forall_mem_zipWith fun k hk k2 hk2 => hf k k2 g (hp.take d k hk) (hp.drop d k2 hk2) hg
  refine ⟨elems_append.mpr ⟨.map fun r hr => (h r hr).1, .map fun r hr => (h r hr).2⟩, ?_⟩
  simp only [mergeBlock, List.length_append, List.length_map, List.length_zipWith, List.length_take, List.length_drop]
  omega

theorem mergeBlocks_keeps {n : Nat} {f : Word → Word → Word → Word × Word} (hf : KeepsPair n f) (d : Nat) {gs : List Word}
    (hgs : Elems n gs) : KeepsBuf n (mergeBlocks f d gs) := by
  induction gs with
  | nil => exact fun p hp => ⟨hp, Nat.le_refl _⟩
  | cons g gs ih =>
    obtain ⟨hg, hgs⟩ := elems_cons.mp hgs
    exact (mergeBlock_keeps hf d hg).takeDrop (ih hgs) (2 * d)

theorem mergeLevel_keeps {n : Nat} {f : Word → Word → Word → Word × Word} (hf : KeepsPair n f) (m : Nat) {sub : List Word}
    (hsub : Elems n sub) (i : Nat) : KeepsBuf n (mergeLevel f m sub · i) :=
  mergeBlocks_keeps hf _ (hsub.take _)

section Transforms

variable {F : GF} (hF : FieldOk F) (m : Nat) {sub : List Word} (hsub : Elems F.n sub)
include hF hsub

theorem fftl_keeps : KeepsBuf F.n (fftl F m sub) :=
  (KeepsBuf.foldl (mergeLevel_keeps hF.bfly m hsub) _).comp (leafPass_keeps _ m)

theorem ifftl_keeps : KeepsBuf F.n (ifftl F m sub) :=
  (leafPass_keeps _ m).comp (.foldl (mergeLevel_keeps hF.ibfly m hsub) _)

theorem fft_keeps : KeepsBuf F.n (fft F m sub) := (fftl_keeps hF m hsub).comp (radix_keeps _ m)

theorem ifft_keeps : KeepsBuf F.n (ifft F m sub) := (iradix_keeps _ m).comp (ifftl_keeps hF m hsub)

end Transforms

/-! ## The concurrent transforms (R183) -/

/-- The workers' steps are those of the two lists, in some order. -/
theorem mem_interleave {ts : List Worker} {xs ys : List Pair} {x : Pair} (h : x ∈ (interleave ts xs ys).1) : x ∈ xs ∨ x ∈ ys := by
  induction ts, xs, ys using interleave.induct with
  | case1 xs ys => simpa [interleave] using h
  | case2 t ts ys => exact .inr (by simpa [interleave] using h)
  | case3 t ts xs hne => exact .inl (by simpa [interleave, hne] using h)
  | case4 ts x' xs y ys ih =>
    rcases List.mem_cons.mp h with rfl | h
    · exact .inl (List.mem_cons_self ..)
    · exact (ih h).imp_left (List.mem_cons_of_mem _)
  | case5 ts x' xs y ys ih =>
    rcases List.mem_cons.mp h with rfl | h
    · exact .inr (List.mem_cons_self ..)
    · exact (ih h).imp_right (List.mem_cons_of_mem _)

/-- Each twiddle of a worker's butterflies is an entry of the table. -/
theorem isElem_workerPairs {n : Nat} {sub : List Word} (hsub : Elems n sub) {d j0 k : Nat} {x : Pair}
    (h : x ∈ workerPairs d sub j0 k) : IsElem n x.g := by
  obtain ⟨j, -, hx⟩ := List.mem_flatMap.mp h
  obtain ⟨t, -, rfl⟩ := List.mem_map.mp hx
  exact hsub.getD j

theorem applyPair_keeps {n : Nat} {f : Word → Word → Word → Word × Word} (hf : KeepsPair n f) {x : Pair} (hx : IsElem n x.g) :
    KeepsBuf n (applyPair f · x) := by
  intro p hp
  obtain ⟨h1, h2⟩ := hf _ _ _ (hp.getD x.k) (hp.getD x.k2) hx
  exact ⟨(hp.set _ h1).set _ h2, by simp [applyPair]⟩

/-- One level of the two workers keeps the shared buffer, in whichever order they move. -/
theorem workerLevel_keeps {n : Nat} {f : Word → Word → Word → Word × Word} (hf : KeepsPair n f) (m : Nat) {sub : List Word}
    (hsub : Elems n sub) (ts : List Worker) (i : Nat) : KeepsBuf n (fun p => (workerLevel f m sub (p, ts) i).1) := by
  intro p hp
  refine List.foldlRecOn (motive := fun q => Elems n q ∧ q.length ≤ p.length) _ _ ⟨hp, Nat.le_refl _⟩
    fun q ⟨hq, hl⟩ x hx => ?_
  have hg : IsElem n x.g := (mem_interleave hx).elim (isElem_workerPairs hsub) (isElem_workerPairs hsub)
  exact ⟨(applyPair_keeps hf hg q hq).1, (applyPair_keeps hf hg q hq).2.trans hl⟩

theorem workerLevels_keeps {n : Nat} {f : Word → Word → Word → Word × Word} (hf : KeepsPair n f) (m : Nat) {sub : List Word}
    (hsub : Elems n sub) (l : List Nat) (ts : List Worker) :
    KeepsBuf n (fun p => (l.foldl (workerLevel f m sub) (p, ts)).1) := fun p hp =>
  List.foldlRecOn (motive := fun q : List Word × List Worker => Elems n q.1 ∧ q.1.length ≤ p.length) l _ ⟨hp, Nat.le_refl _⟩
    fun q ⟨hq, hl⟩ i _ =>
      have h := workerLevel_keeps hf m hsub q.2 i q.1 hq
      ⟨h.1, h.2.trans hl⟩

theorem fftp_keeps {F : GF} (hF : FieldOk F) (m : Nat) {sub : List Word} (hsub : Elems F.n sub) (ts : List Worker) :
    KeepsBuf F.n (fun p => (fftp F m sub p ts).1) :=
  (workerLevels_keeps hF.bfly m hsub _ ts).comp ((leafPass_keeps _ m).comp (radix_keeps _ m))

theorem ifftp_keeps {F : GF} (hF : FieldOk F) (m : Nat) {sub : List Word} (hsub : Elems F.n sub) (ts : List Worker) :
    KeepsBuf F.n (fun p => (ifftp F m sub p ts).1) :=
  ((iradix_keeps _ m).comp (leafPass_keeps _ m)).comp (workerLevels_keeps hF.ibfly m hsub _ ts)

/-! ## The polynomial functions (44_poly.md) -/

theorem elems_addRow {n : Nat} {row r : List Word} (hrow : Elems n row) (hr : Elems n r) : Elems n (addRow row r) := by
  fun_induction addRow row r with
  | case1 r => exact hr
  | case2 v vs => exact hr
  | case3 v vs c cs ih =>
    obtain ⟨hv, hvs⟩ := elems_cons.mp hrow
    obtain ⟨hc, hcs⟩ := elems_cons.mp hr
    exact elems_cons.mpr ⟨hc.xor hv, ih hvs hcs⟩

@[simp] theorem length_addRow (row r : List Word) : (addRow row r).length = r.length := by
  fun_induction addRow row r with
  | case1 r => rfl
  | case2 v vs => rfl
  | case3 v vs c cs ih => simp [ih]

@[simp] theorem length_convRow (F : GF) (q r : List Word) (ai : Word × Nat) : (convRow F q r ai).length = r.length := by
  simp [convRow]
  omega

/-- The length of a schoolbook product (R195, R196). -/
theorem length_mulNaivePoly (F : GF) (p q : List Word) :
    (mulNaivePoly F p q).length = naiveLength p.length q.length := by
  unfold mulNaivePoly naiveLength
  simp only [List.length_eq_zero_iff]
  split
  · rfl
  · exact List.foldlRecOn (motive := fun r : List Word => r.length = p.length + q.length - 1) _ _ (length_zeros _)
      fun r hr ai _ => by rw [length_convRow, hr]

@[simp] theorem length_substFrom (F : GF) (k acc : Word) (p : List Word) : (substFrom F k acc p).length = p.length := by
  induction p generalizing acc with
  | nil => rfl
  | cons c cs ih => simp [substFrom, ih]

@[simp] theorem length_invPasses (F : GF) (acc : Word) (p : List Word) : (invPasses F acc p).1.length = p.length := by
  induction p generalizing acc with
  | nil => rfl
  | cons v vs ih =>
    unfold invPasses
    split
    · simp [ih]
    · simp [ih]

/-- The vanishing polynomial has one coefficient more than it has roots (R212). -/
theorem length_zpoly (F : GF) (roots : List Word) : (zpoly F roots).length = roots.length + 1 := by
  have h : ∀ (rs z : List Word), z ≠ [] →
      (rs.foldl (fun z x => mulNaivePoly F z [x, 1#64]) z).length = rs.length + z.length := by
    intro rs
    induction rs with
    | nil => simp
    | cons x rs ih =>
      intro z hz
      have hlen : (mulNaivePoly F z [x, 1#64]).length = z.length + 1 := by simp [length_mulNaivePoly, naiveLength, hz]
      rw [List.foldl_cons, ih _ (List.ne_nil_of_length_eq_add_one hlen), hlen, List.length_cons]
      omega
  exact h roots [1#64] (by simp)

theorem length_expand_le {p : List Word} {L K : Nat} (hp : p.length ≤ K) (hL : L ≤ K) : (expand p L).length ≤ K := by
  simp [expand]
  omega

section Polynomials

variable {F : GF} (hF : FieldOk F)
include hF

theorem isElem_evalPoly {p : List Word} (hp : Elems F.n p) (x : Word) : IsElem F.n (evalPoly F p x) :=
  List.foldrRecOn (motive := IsElem F.n) p _ (.zero _) fun _ hacc c hc => (hF.mul hacc x).xor (hp c hc)

theorem elems_convRow {p q r : List Word} (hp : Elems F.n p) (hr : Elems F.n r) {ai : Word × Nat} (hai : ai ∈ p.zipIdx) :
    Elems F.n (convRow F q r ai) := by
  have hrow : Elems F.n (q.map (F.mul ai.1)) := .map fun w _ => hF.mul (hp _ (List.fst_mem_of_mem_zipIdx hai)) w
  exact elems_append.mpr ⟨hr.take _, elems_addRow hrow (hr.drop _)⟩

theorem elems_mulNaivePoly {p : List Word} (hp : Elems F.n p) (q : List Word) : Elems F.n (mulNaivePoly F p q) := by
  unfold mulNaivePoly
  split
  · exact elems_nil _
  · exact List.foldlRecOn (motive := Elems F.n) _ _ (elems_zeros _ _) fun r hr ai hai => elems_convRow hF hp hr hai

theorem elems_zpoly (roots : List Word) : Elems F.n (zpoly F roots) :=
  List.foldlRecOn (motive := Elems F.n) roots _ (by simpa using IsElem.one hF.width.1) fun _ hz _ _ => elems_mulNaivePoly hF hz _

theorem mulSample_keeps (q : List Word) : KeepsBuf F.n (mulSample F · q) := fun p hp =>
  ⟨forall_mem_zipWith fun v hv w _ => hF.mul (hp v hv) w, by simp [mulSample]⟩

theorem elems_substFrom {p : List Word} (hp : Elems F.n p) (k acc : Word) : Elems F.n (substFrom F k acc p) := by
  induction p generalizing acc with
  | nil => exact elems_nil _
  | cons c cs ih =>
    obtain ⟨hc, hcs⟩ := elems_cons.mp hp
    exact elems_cons.mpr ⟨hF.mul hc acc, ih hcs _⟩

theorem substitute_keeps (k : Word) : KeepsBuf F.n (substitute F · k) := fun _ hp =>
  ⟨elems_substFrom hF hp k _, (length_substFrom ..).le⟩

/-- Both passes answer elements: the inverted entries, and what the backward pass carries on (R207). -/
theorem elems_invPasses {p : List Word} (hp : Elems F.n p) {acc : Word} (hacc : IsElem F.n acc) :
    Elems F.n (invPasses F acc p).1 ∧ IsElem F.n (invPasses F acc p).2 := by
  induction p generalizing acc with
  | nil => exact ⟨elems_nil _, hF.inv hacc⟩
  | cons v vs ih =>
    obtain ⟨hv, hvs⟩ := elems_cons.mp hp
    unfold invPasses
    split
    · obtain ⟨hl, ht⟩ := ih hvs hacc
      exact ⟨elems_cons.mpr ⟨hv, hl⟩, ht⟩
    · obtain ⟨hl, ht⟩ := ih hvs (hF.mul hacc v)
      exact ⟨elems_cons.mpr ⟨hF.mul ht acc, hl⟩, hF.mul ht v⟩

theorem invSample_keeps : KeepsBuf F.n (invSample F) := fun _ hp =>
  ⟨(elems_invPasses hF hp (.one hF.width.1)).1, (length_invPasses ..).le⟩

variable (m : Nat) {sub : List Word} (hsub : Elems F.n sub)
include hsub

/-- The transform of padded data, within `K` entries (R199, R210, R222). -/
theorem fft_expand_keeps {p : List Word} (hp : Elems F.n p) {L K : Nat} (hl : p.length ≤ K) (hL : L ≤ K) :
    Elems F.n (fft F m sub (expand p L)) ∧ (fft F m sub (expand p L)).length ≤ K :=
  have h := fft_keeps hF m hsub _ (hp.expand L)
  ⟨h.1, h.2.trans (length_expand_le hl hL)⟩

/-- The samples of `p` on the domain times any others, transformed back: the shape of `pmul` and `pdiv` (R199, R210). -/
theorem domainProduct_keeps {p : List Word} (hp : Elems F.n p) (hl : p.length ≤ 2 ^ m) (qs : List Word) :
    Elems F.n (ifft F m sub (mulSample F (fft F m sub (expand p (2 ^ m))) qs)) ∧
      (ifft F m sub (mulSample F (fft F m sub (expand p (2 ^ m))) qs)).length ≤ 2 ^ m :=
  have hs := fft_expand_keeps hF m hsub hp hl (Nat.le_refl _)
  have h := (ifft_keeps hF m hsub).comp (mulSample_keeps hF qs) _ hs.1
  ⟨h.1, h.2.trans hs.2⟩

/-- The quotient of RECOVER, whatever the index list is (R224). -/
theorem elems_recoverQuotient (comb cw idx : List Word) (k : Word) :
    Elems F.n (recoverQuotient F m comb sub cw idx k) := by
  have samples : ∀ {p : List Word}, Elems F.n p → Elems F.n (fft F m sub (expand p (2 ^ m))) := fun hp =>
    (fft_keeps hF m hsub _ (hp.expand _)).1
  have back : ∀ {p : List Word}, Elems F.n p → ∀ qs, Elems F.n (ifft F m sub (mulSample F p qs)) := fun hp qs =>
    ((ifft_keeps hF m hsub).comp (mulSample_keeps hF qs) _ hp).1
  have hZ := elems_zpoly hF (idx.map fun i => comb.getD i.toNat 0#64)
  have hDZ := back (samples hZ) cw
  exact (back (samples (substitute_keeps hF k _ hDZ).1) _).trim

end Polynomials

/-! ## The tables of a generator (41_basis.md) -/

theorem elems_towerFrom {F : GF} (hF : FieldOk F) {b : Word} (hb : IsElem F.n b) (k : Nat) : Elems F.n (towerFrom F k b) := by
  induction k generalizing b with
  | zero => exact elems_nil _
  | succ k ih => exact elems_cons.mpr ⟨hb, ih ((hF.mul hb b).xor hb)⟩

theorem elems_combinations {n : Nat} {basis : List Word} (hb : Elems n basis) (m : Nat) : Elems n (combinations basis m) :=
  List.foldlRecOn (motive := Elems n) _ _ (elems_cons.mpr ⟨.zero n, elems_nil n⟩) fun _ hc _ _ =>
    elems_append.mpr ⟨hc, .map fun w hw => (hc w hw).xor (hb.getD _)⟩

theorem elems_evens {n : Nat} {p : List Word} (hp : Elems n p) : Elems n (evens p) := by
  fun_induction evens p with
  | case1 => exact hp
  | case2 a => exact hp
  | case3 a b rest ih =>
    obtain ⟨ha, hrest⟩ := elems_cons.mp hp
    exact elems_cons.mpr ⟨ha, ih (elems_cons.mp hrest).2⟩

/-! ## What the invariant says of the parts of a state -/

theorem State.Inv.elems_buf {s : State} (hs : s.Inv) (b : PReg) : Elems s.field.n (s.buf b) :=
  ((Memory.wf_iff _ _).mp hs.buffers b).2

theorem State.Inv.len_le {s : State} (hs : s.Inv) (b : PReg) : s.len b ≤ Config.cap :=
  ((Memory.wf_iff _ _).mp hs.buffers b).1

theorem State.Inv.elems_sub {s : State} (hs : s.Inv) : Elems s.field.n s.sub :=
  fun w hw => hs.entries w (List.mem_append_right _ hw)

/-- A domain is never longer than a buffer: `2^m` is at most `CAP` (R40 (c)). -/
theorem State.Inv.domain_le {s : State} (hs : s.Inv) : s.domain ≤ Config.cap :=
  Nat.pow_le_pow_right (by decide) (hs.span.trans (Nat.min_le_right _ _))

/-! ## Every update of the state keeps the invariant -/

namespace State.Inv

variable {s : State} (hs : s.Inv)
include hs

theorem setInputs (is : List Input) : (s.setInputs is).Inv := { hs with }

theorem setEntropy (ws : List Word) : (s.setEntropy ws).Inv := { hs with }

theorem nextDraw : s.nextDraw.Inv := { hs with }

theorem setTurns (ts : List Worker) : (s.setTurns ts).Inv := { hs with }

theorem refuse : s.refuse.Inv := { hs with }

theorem writeE (i : EReg) {v : Word} (hv : IsElem s.field.n v) : (s.writeE i v).Inv :=
  { hs with
    registers := fun j => by
      rw [writeE_get]
      exact .ite hv (hs.registers j) }

theorem setBuf (b : PReg) {p : List Word} (hp : Elems s.field.n p) (hl : p.length ≤ Config.cap) : (s.setBuf b p).Inv :=
  { hs with buffers := setBuf_wf hs.buffers b hl hp }

/-- A command that rewrites its buffer in place by a function that keeps buffers. -/
theorem setBuf_keeps {f : List Word → List Word} (hf : KeepsBuf s.field.n f) (d b : PReg) : (s.setBuf d (f (s.buf b))).Inv :=
  have h := hf _ (hs.elems_buf b)
  hs.setBuf d h.1 (h.2.trans (hs.len_le b))

/-- The tables of a generator, in the span's range (R152). -/
theorem setBasis {m : Nat} (hm : m ≠ 0) (hspan : m ≤ min s.field.n Config.mMax) {g0 : Word} (hg : IsElem s.field.n g0)
    (htower : (tower s.field g0).getLast? = some 1#64) :
    (s.setBasis m (retained s.field g0 m) (combinations (retained s.field g0 m) m)
      (evens (combinations (retained s.field g0 m) m))).Inv :=
  have hbasis : Elems s.field.n (retained s.field g0 m) := (elems_towerFrom s.fieldOk hg _).drop _
  have hcomb := elems_combinations hbasis m
  { hs with
    entries := elems_append.mpr ⟨elems_append.mpr ⟨hbasis, hcomb⟩, elems_evens hcomb⟩
    span := hspan
    tables := fun _ => ⟨g0, hg, htower, rfl, rfl, rfl⟩
    noTables := fun h => absurd h hm }

theorem complete : s.complete.Inv :=
  { hs with busyNoError := fun h => by simp [busy] at h }

theorem fail (w : Word) (k : ErrKind) (sub : BitVec 8) (val : Nat) : (s.fail w k sub val).Inv :=
  { hs with
    noError := fun h => by simp at h
    busyNoError := fun h => by simp [busy] at h }

end State.Inv

/-! ## Every command keeps the invariant -/

/-- A word drawn from the port is cut to the field (R140). -/
theorem takeNonzero_eq_and {mask v : Word} {ws rest : List Word} (h : takeNonzero mask ws = some (v, rest)) :
    ∃ w, v = w &&& mask := by
  induction ws with
  | nil => simp [takeNonzero] at h
  | cons w ws ih =>
    unfold takeNonzero at h
    split at h
    · exact ih h
    · obtain ⟨rfl, -⟩ := by simpa using h
      exact ⟨w, rfl⟩

/-- A free draw is an element of the field (R139). -/
theorem isElem_freeDraw (W : Width) (k : Nat) : IsElem W.bits (freeDraw W k) := by
  cases W with
  | gf16 =>
    have h := (Config.draw16 k).isLt
    simp only [freeDraw, IsElem, Width.bits, BitVec.toNat_ofNat]
    omega
  | gf64 => exact (freeDraw .gf64 k).isLt

/-- Every state the result answers has the property. -/
def Answers (P : State → Prop) (r : Result) : Prop := ∀ t, r = .next t → P t

namespace State.Inv

variable {s : State} (hs : s.Inv)
include hs

theorem answers_next : Answers Inv (.next s) := by
  rintro t ⟨⟩
  exact hs

theorem answers_finish : Answers Inv (finish s) := hs.complete.answers_next

/-- A check in front of the rest of a command: the error, or the rest where the check passes (R262). -/
theorem answers_check {c : Prop} [Decidable c] {w : Word} {k : ErrKind} {sub : BitVec 8} {val : Nat} {r : Result}
    (hr : ¬c → Answers Inv r) : Answers Inv (if c then raise w k sub val s else r) := by
  split
  · exact (hs.fail w k sub val).answers_next
  · next hc => exact hr hc

/-- A butterfly writes two elements, or raises `E_ILLEGAL` on one register (R137, R138). -/
theorem answers_butterfly (w : Word) (d a b : EReg) {f : Word → Word → Word → Word × Word} (hf : KeepsPair s.field.n f) :
    Answers Inv (if d = a then raise w .illegal 0#8 0 s
      else finish (s.writePair d a (f (s.readE d) (s.readE a) (s.readE b)))) :=
  hs.answers_check fun _ =>
    have h := hf _ _ _ (s.readE_lt d) (s.readE_lt a) (s.readE_lt b)
    ((hs.writeE d h.1).writeE a h.2).answers_finish

theorem answers_frand (d : EReg) : Answers Inv (execFrand d s) := by
  unfold execFrand
  split
  · next v rest h =>
    obtain ⟨w, rfl⟩ := takeNonzero_eq_and h
    exact ((hs.setEntropy rest).writeE d (s.and_mask_lt w)).answers_finish
  · split
    · exact (hs.setEntropy []).answers_next
    · exact ((hs.setEntropy []).nextDraw.writeE d (s.field_n ▸ isElem_freeDraw ..)).answers_finish

theorem answers_basis (a : EReg) (m : BitVec 32) : Answers Inv (execBasis a m s) :=
  hs.answers_check fun hm => hs.answers_check fun htower =>
    (hs.setBasis (by omega) (by omega) (s.readE_lt a) (not_ne_iff.mp htower)).answers_finish

theorem answers_convert (w : Word) {f : Nat → List Word → List Word} (hf : ∀ m, KeepsBuf s.field.n (f m)) (d : PReg) :
    Answers Inv (convert w f d s) := by
  intro t ht
  rcases convert_cases ht with ⟨-, rfl⟩ | ⟨-, rfl⟩
  · exact (hs.setBuf_keeps (hf _) d d).complete
  · exact hs.fail ..

/-- The check of the six transforms in front of a result that keeps the invariant. -/
theorem answers_domainCheck (w : Word) (d : PReg) {k : Result} (hk : Answers Inv k) : Answers Inv (domainCheck w d s k) := by
  intro t ht
  rcases domainCheck_cases ht with ⟨-, rfl⟩ | ⟨-, -, rfl⟩ | ⟨-, -, ht⟩
  · exact hs.fail ..
  · exact hs.fail ..
  · exact hk t ht

/-- One of the four sequential transforms. -/
theorem answers_transform (w : Word) {f : List Word → List Word} (hf : KeepsBuf s.field.n f) (d : PReg) :
    Answers Inv (domainCheck w d s (finish (s.setBuf d (f (s.buf d))))) :=
  hs.answers_domainCheck w d (hs.setBuf_keeps hf d d).answers_finish

theorem answers_pmuln (d a b : PReg) : Answers Inv (execPmuln d a b s) :=
  hs.answers_check fun hcap =>
    (hs.setBuf d (elems_mulNaivePoly s.fieldOk (hs.elems_buf a) _)
      ((length_mulNaivePoly ..).trans_le (Nat.le_of_not_lt hcap))).answers_finish

theorem answers_muls (d a b : PReg) : Answers Inv (execMuls d a b s) :=
  hs.answers_check fun _ => (hs.setBuf_keeps (mulSample_keeps s.fieldOk _) d a).answers_finish

/-- The write of PMUL and PDIV: a product on the domain, with a first operand that fits it. -/
theorem setBuf_domainProduct (d a : PReg) (hl : ¬s.domain < s.len a) (qs : List Word) :
    (s.setBuf d (ifft s.field s.basisM s.sub (mulSample s.field
      (fft s.field s.basisM s.sub (expand (s.buf a) (2 ^ s.basisM))) qs))).Inv :=
  have h := domainProduct_keeps s.fieldOk s.basisM hs.elems_sub (hs.elems_buf a) (Nat.le_of_not_lt hl) qs
  hs.setBuf d h.1 (h.2.trans hs.domain_le)

theorem answers_pmul (d a b : PReg) : Answers Inv (execPmul d a b s) :=
  hs.answers_check fun _ => hs.answers_check fun hl => hs.answers_check fun _ => hs.answers_check fun _ =>
    (hs.setBuf_domainProduct d a hl _).answers_finish

theorem answers_pdiv (d a b : PReg) : Answers Inv (execPdiv d a b s) :=
  hs.answers_check fun _ => hs.answers_check fun hl => hs.answers_check fun _ =>
    (hs.setBuf_domainProduct d a hl _).answers_finish

theorem answers_zpoly (d a : PReg) : Answers Inv (execZpoly d a s) :=
  hs.answers_check fun _ => hs.answers_check fun _ => hs.answers_check fun hr =>
    (hs.setBuf d (elems_zpoly s.fieldOk _)
      ((length_zpoly ..).trans_le ((Nat.le_of_not_lt hr).trans hs.domain_le))).answers_finish

theorem answers_encode (d a : PReg) (factor : BitVec 32) : Answers Inv (execEncode d a factor s) :=
  hs.answers_check fun _ => hs.answers_check fun hT =>
    have h := fft_expand_keeps s.fieldOk s.basisM hs.elems_sub (hs.elems_buf a) (hs.len_le a)
      ((not_ne_iff.mp hT).trans_le hs.domain_le)
    (hs.setBuf d h.1 h.2).answers_finish

theorem answers_recoverSteps (w : Word) (d a b : PReg) (k : Word) {dlen : Nat} (hd : dlen ≤ Config.cap) :
    Answers Inv (recoverSteps w d a b k dlen s) := by
  intro t ht
  rcases recoverSteps_cases ht with ⟨-, rfl⟩ | ⟨-, q, rfl, ⟨-, rfl⟩ | ⟨hq, rfl⟩⟩
  · exact hs.fail ..
  · exact hs.fail ..
  · obtain ⟨h, hl⟩ := substitute_keeps s.fieldOk (s.field.inv k) _
      (elems_recoverQuotient s.fieldOk s.basisM hs.elems_sub s.comb (s.buf a) (s.buf b) k)
    exact (hs.setBuf d (h.expand dlen) (length_expand_le (hl.trans (hq.trans hd)) hd)).complete

theorem answers_recover (d a b : PReg) (c : EReg) (dlen : BitVec 32) : Answers Inv (execRecover d a b c dlen s) := by
  refine hs.answers_check fun _ => hs.answers_check fun _ => hs.answers_check fun _ => hs.answers_check fun _ =>
    hs.answers_check fun hbudget => ?_
  split
  · exact (hs.fail ..).answers_next
  · have hdomain := hs.domain_le
    exact hs.answers_recoverSteps _ d a b _ (by omega)

theorem answers_resize (d : PReg) (len : BitVec 32) : Answers Inv (execResize d len s) :=
  hs.answers_check fun hcap =>
    (hs.setBuf d ((hs.elems_buf d).resizeList _)
      ((length_resizeList ..).trans_le (Nat.le_of_not_lt hcap))).answers_finish

/-- Every command, from every state that meets the invariant (R40). -/
theorem answers_exec (i : Instr) : Answers Inv (exec i s) := by
  have hF := s.fieldOk
  have hsub := hs.elems_sub
  have hE := s.readE_lt
  cases i with
  | nop => exact hs.answers_finish
  | fadd d a b => exact (hs.writeE d (.xor (hE a) (hE b))).answers_finish
  | fsub d a b => exact (hs.writeE d (.xor (hE a) (hE b))).answers_finish
  | fneg d a => exact (hs.writeE d (hE a)).answers_finish
  | fmul d a b => exact (hs.writeE d (hF.mul (hE a) _)).answers_finish
  | fmuln d a b => exact (hs.writeE d (hF.mulNaive (hE a) _)).answers_finish
  | fsqr d a => exact (hs.writeE d (hF.mul (hE a) _)).answers_finish
  | finv d a => exact (hs.writeE d (hF.inv (hE a))).answers_finish
  | fbfly d a b => exact hs.answers_butterfly _ d a b hF.bfly
  | fibfly d a b => exact hs.answers_butterfly _ d a b hF.ibfly
  | frand d => exact hs.answers_frand d
  | basis a m => exact hs.answers_basis a m
  | radix d => exact hs.answers_convert _ (radix_keeps _) d
  | iradix d => exact hs.answers_convert _ (iradix_keeps _) d
  | fft d => exact hs.answers_transform _ (fft_keeps hF _ hsub) d
  | ifft d => exact hs.answers_transform _ (ifft_keeps hF _ hsub) d
  | fftl d => exact hs.answers_transform _ (fftl_keeps hF _ hsub) d
  | ifftl d => exact hs.answers_transform _ (ifftl_keeps hF _ hsub) d
  | fftp d =>
    exact hs.answers_domainCheck _ d ((hs.setBuf_keeps (fftp_keeps hF _ hsub s.turns) d d).setTurns _).answers_finish
  | ifftp d =>
    exact hs.answers_domainCheck _ d ((hs.setBuf_keeps (ifftp_keeps hF _ hsub s.turns) d d).setTurns _).answers_finish
  | eval d a b => exact (hs.writeE d (isElem_evalPoly hF (hs.elems_buf a) _)).answers_finish
  | pmuln d a b => exact hs.answers_pmuln d a b
  | pmul d a b => exact hs.answers_pmul d a b
  | muls d a b => exact hs.answers_muls d a b
  | subst d a => exact (hs.setBuf_keeps (substitute_keeps hF _) d d).answers_finish
  | invs d => exact (hs.setBuf_keeps (invSample_keeps hF) d d).answers_finish
  | pdiv d a b => exact hs.answers_pdiv d a b
  | zpoly d a => exact hs.answers_zpoly d a
  | encode d a factor => exact hs.answers_encode d a factor
  | recover d a b c dlen => exact hs.answers_recover d a b c dlen
  | resize d len => exact hs.answers_resize d len
  | trim d => exact (hs.setBuf_keeps (fun _ hp => ⟨hp.trim, List.length_take_le' ..⟩) d d).answers_finish
  | copy d a => exact (hs.setBuf d (hs.elems_buf a) (hs.len_le a)).answers_finish

end State.Inv

/-! ## What a write of `CTRL` does (R25, R39, R292) -/

theorem Width.ofBool_eq_iff {b : Bool} {W : Width} : Width.ofBool b = W ↔ b = W.toBool := by
  cases b <;> cases W <;> decide

theorem State.writeCtrl_reset {s : State} {v : Word} (h : v.getLsbD 63 = true) : s.writeCtrl v = s.toReset := by
  simp [State.writeCtrl, h]

theorem State.writeCtrl_keep {s : State} {v : Word} (h : v.getLsbD 63 = false) (hw : v.getLsbD 0 = s.width.toBool) :
    s.writeCtrl v = { s with ieDone := v.getLsbD 1, ieErr := v.getLsbD 2 } := by
  have hW := Width.ofBool_eq_iff.mpr hw
  simp only [State.writeCtrl, h, hW, Bool.false_eq_true, if_false, if_true]

theorem State.writeCtrl_change {s : State} {v : Word} (h : v.getLsbD 63 = false) (hw : v.getLsbD 0 ≠ s.width.toBool) :
    s.writeCtrl v =
      { s.clearElements with width := Width.ofBool (v.getLsbD 0), ieDone := v.getLsbD 1, ieErr := v.getLsbD 2 } := by
  have hW : Width.ofBool (v.getLsbD 0) ≠ s.width := fun h => hw (Width.ofBool_eq_iff.mp h)
  simp only [State.writeCtrl, h, hW, Bool.false_eq_true, if_false]

/-! ## Every host access keeps the invariant -/

namespace State.Inv

/-- A state without elements and without a basis needs only (e) and (f) of R40: after a reset or a width change (R38, R39). -/
theorem of_cleared {t : State} (he : t.e = Vector.replicate 16 0#64) (hmem : t.mem = Vector.replicate 8 []) (hm : t.basisM = 0)
    (htables : t.basis = [] ∧ t.comb = [] ∧ t.sub = [])
    (herr : t.errf = false → t.err = 0#8 ∧ t.errinfo = 0#64 ∧ t.errcmd = 0#64) (hbusy : t.busy = true → t.errf = false) :
    t.Inv where
  buffers := hmem ▸ Memory.wf_empty _
  registers := fun i => by
    simp only [he, Fin.getElem_fin, Vector.getElem_replicate]
    exact .zero _
  entries := by simp [htables]
  span := by simp [hm]
  tables := fun h => absurd hm h
  noTables := fun _ => htables
  noError := herr
  busyNoError := hbusy

theorem toReset (s : State) : s.toReset.Inv :=
  of_cleared rfl rfl rfl ⟨rfl, rfl, rfl⟩ (fun _ => ⟨rfl, rfl, rfl⟩) (fun _ => rfl)

variable {s : State} (hs : s.Inv)
include hs

theorem writeCtrl (v : Word) : (s.writeCtrl v).Inv := by
  cases h : v.getLsbD 63 with
  | true => exact writeCtrl_reset h ▸ toReset s
  | false =>
    by_cases hw : v.getLsbD 0 = s.width.toBool
    · rw [writeCtrl_keep h hw]
      exact { hs with }
    · rw [writeCtrl_change h hw]
      exact of_cleared rfl rfl rfl ⟨rfl, rfl, rfl⟩ hs.noError hs.busyNoError

theorem clearError : s.clearError.Inv :=
  { hs with
    noError := fun _ => ⟨rfl, rfl, rfl⟩
    busyNoError := fun _ => rfl }

theorem writeStatus (v : Word) : (s.writeStatus v).Inv := by
  unfold State.writeStatus
  split
  · exact { hs.clearError with }
  · exact { hs with }

theorem issue (w : Word) : (s.issue w).Inv := by
  unfold State.issue
  split
  · exact { hs with }
  · next h => exact { hs with busyNoError := fun _ => by simpa using h }

/-- A write that its word does not refuse (R64, R66). -/
theorem writeLoc {l : Loc} {v : Word} {t : State} (ht : s.writeLoc l v = some t) : t.Inv := by
  cases l with
  | ctrl => exact Option.some.inj ht ▸ hs.writeCtrl v
  | status => exact Option.some.inj ht ▸ hs.writeStatus v
  | cmd => exact Option.some.inj ht ▸ hs.issue v
  | e i => exact Option.some.inj ht ▸ hs.writeE i (s.and_mask_lt v)
  | elem b i =>
    simp only [State.writeLoc, Option.ite_none_right_eq_some, Option.some.injEq] at ht
    obtain ⟨-, rfl⟩ := ht
    exact { hs with buffers := writeElem_wf hs.buffers b i v }
  | id | errinfo | errcmd | param | len | basis | comb | sub => cases ht

theorem hostAccess (a : Access) : (s.hostAccess a).Inv := by
  cases a with
  | read off =>
    show (s.hostRead off).Inv
    rcases s.hostRead_cases off with ⟨v, -, h⟩ | ⟨-, h⟩
    · exact h ▸ { hs with }
    · exact h ▸ { hs with }
  | write off v =>
    show (s.hostWrite off v).Inv
    rcases s.hostWrite_cases off v with ⟨l, t, -, ht, h⟩ | h
    · exact h ▸ hs.writeLoc ht
    · exact h ▸ hs.refuse

/-! ## Every step keeps the invariant -/

theorem answers_engineStep : Answers Inv (engineStep s) := by
  rw [engineStep_eq]
  split
  · exact hs.answers_next
  · split
    · exact hs.answers_exec _
    · exact (hs.fail ..).answers_next

theorem answers_accessStep (a : Access) (rest : List Input) : Answers Inv (accessStep a rest s) := by
  unfold accessStep
  split
  · exact hs.answers_engineStep
  · exact ((hs.setInputs rest).hostAccess a).answers_next

theorem answers_step : Answers Inv (step s) := by
  unfold step nextStep
  split
  · exact hs.answers_engineStep
  · exact (hs.setInputs _).answers_engineStep
  · exact (toReset _).answers_next
  · exact hs.answers_accessStep _ _
  · split
    · exact hs.answers_accessStep _ _
    · rintro t ⟨⟩

end State.Inv

end Sys2Proof.Machine

namespace Sys2Proof.Proofs

open Sys2Proof.Machine

/-- Settles O58: each agent's step keeps the invariant (R40). -/
theorem stepKeepsTheInvariant : Obligations.StepKeepsTheInvariant := fun _ t hs ht => hs.answers_step t ht

/-- Settles O11, from the two cases of a write of `CTRL` without bit 63 (R39). -/
theorem widthChangeClearsElements : Obligations.WidthChangeClearsElements := by
  intro s v h
  refine ⟨fun hw => ?_, State.writeCtrl_keep h⟩
  refine (State.writeCtrl_change h hw).trans ?_
  cases v.getLsbD 0 <;> rfl

/-- The constant of R34, computed from the parameters of the block. -/
theorem paramWord_eq : paramWord = 0x1008_1010#64 := by decide

/-- Settles O18: the two words stand in no field of the state, and a write of either is refused (R33, R34, R70). -/
theorem idAndParamAreConstant : Obligations.IdAndParamAreConstant := fun s =>
  ⟨rfl, by rw [State.window, locate_param, Option.bind_some, State.readLoc, paramWord_eq], fun _ => ⟨rfl, rfl⟩⟩

/-- The reset state has no word at a table or buffer offset (R38): no basis is active and every buffer is empty. -/
theorem readLoc_reset_eq_none {l : Loc} (h : 0x040 ≤ l.offset) : State.reset.readLoc l = none := by
  cases l with
  | basis i => rfl
  | comb i => rfl
  | sub k => rfl
  | elem b i => simp [State.readLoc, State.len, State.buf, State.reset]
  | e i => simp only [Loc.offset] at h; omega
  | len b => simp only [Loc.offset] at h; omega
  | id | ctrl | status | cmd | errinfo | errcmd | param => simp [Loc.offset] at h

/-- Settles O13, word by word of the address map (R38, R63). -/
theorem resetValues : Obligations.ResetValues := by
  obtain ⟨hid, hparam, -⟩ := idAndParamAreConstant State.reset
  refine ⟨fun i => ?_, fun b => ?_, fun off h _ => ?_, by decide, by decide, rfl, rfl, hid, hparam, rfl⟩
  · rw [State.window, locate_e, Option.bind_some]
    simp [State.readLoc, State.readE, State.reset]
  · rw [State.window, locate_len, Option.bind_some]
    simp [State.readLoc, State.len, State.buf, State.reset]
  · rw [State.window, Option.bind_eq_none_iff]
    intro l hl
    exact readLoc_reset_eq_none ((offset_of_locate hl).1 ▸ h)

end Sys2Proof.Proofs

/-!
PROOFS. The host window (20_memory.md): the words of the reference in the terms of the address map, which accesses are refused
(R70), what a served write leaves of `BUSERR`, and that a held access waits while the command in flight runs (R69).
-/

namespace Sys2Proof.Machine

open Reference

/-! ## The reference's offsets as words of the address map (R63) -/

/-- The address map and its inverse: `locate` answers a word exactly at that word's offset. -/
theorem locate_eq_some {off : Nat} {l : Loc} : locate off = some l ↔ l.inMap ∧ off = l.offset := by
  constructor
  · intro h
    obtain ⟨ho, hl⟩ := offset_of_locate h
    exact ⟨hl, ho.symm⟩
  · rintro ⟨hl, rfl⟩
    exact locate_offset hl

theorem not_unmapped_offset {l : Loc} (h : l.inMap) : ¬ unmapped l.offset := by
  unfold unmapped
  cases l with
  | id | ctrl | status | cmd | errinfo | errcmd | param | e | len => simp only [Loc.offset]; omega
  | basis | comb | sub | elem => simp only [Loc.offset, Loc.inMap] at h ⊢; omega

theorem unmapped_iff {off : Nat} : unmapped off ↔ locate off = none := by
  refine ⟨fun h => ?_, locate_unmapped⟩
  exact locate_eq_none.mpr fun l hl ho => not_unmapped_offset hl (ho ▸ h)

theorem lengthOffset_iff {off : Nat} : 0x020 ≤ off ∧ off < 0x028 ↔ ∃ b, locate off = some (.len b) := by
  simp only [locate_eq_some, Loc.inMap, Loc.offset, true_and]
  constructor
  · rintro ⟨h1, h2⟩
    exact ⟨⟨off - 0x020, by omega⟩, by simp only; omega⟩
  · rintro ⟨b, rfl⟩
    omega

theorem tableOffset_iff {off : Nat} : tableOffset off ↔
    (∃ i, locate off = some (.basis i)) ∨ (∃ i, locate off = some (.comb i)) ∨ ∃ k, locate off = some (.sub k) := by
  simp only [locate_eq_some, Loc.inMap, Loc.offset, tableOffset]
  constructor
  · rintro (h | h)
    · exact .inl ⟨off - 0x040, by omega, by omega⟩
    · rcases Nat.lt_or_ge off 0x20000 with hc | hs
      · exact .inr (.inl ⟨off - 0x10000, by omega, by omega⟩)
      · exact .inr (.inr ⟨off - 0x20000, by omega, by omega⟩)
  · rintro (⟨i, hi, rfl⟩ | ⟨i, hi, rfl⟩ | ⟨k, hk, rfl⟩) <;> omega

theorem readOnly_iff {off : Nat} : readOnly off ↔
    locate off = some .id ∨ locate off = some .errinfo ∨ locate off = some .errcmd ∨ locate off = some .param ∨
      (∃ b, locate off = some (.len b)) ∨
      (∃ i, locate off = some (.basis i)) ∨ (∃ i, locate off = some (.comb i)) ∨ ∃ k, locate off = some (.sub k) := by
  rw [readOnly, lengthOffset_iff, tableOffset_iff]
  simp [locate_eq_some, Loc.inMap, Loc.offset]

theorem beyondLength_iff {s : State} {off : Nat} :
    beyondLength s off ↔ ∃ b i, locate off = some (.elem b i) ∧ s.len b ≤ i := by
  simp only [beyondLength, locate_eq_some, Loc.inMap, Loc.offset, and_assoc]

/-- The valid range of `COMB` (R68). -/
@[simp] theorem State.lt_combCount {s : State} {i : Nat} : i < s.combCount ↔ s.basisM ≠ 0 ∧ i < 2 ^ s.basisM := by
  unfold State.combCount
  split
  · next h => simp [h]
  · next h => simp [h]

/-- The valid range of `SUB` (R68). -/
@[simp] theorem State.lt_subCount {s : State} {k : Nat} : k < s.subCount ↔ s.basisM ≠ 0 ∧ k < 2 ^ (s.basisM - 1) := by
  unfold State.subCount
  split
  · next h => simp [h]
  · next h => simp [h]

theorem State.combCount_le {s : State} {i : Nat} : s.combCount ≤ i ↔ s.basisM = 0 ∨ 2 ^ s.basisM ≤ i := by
  rw [← Nat.not_lt, State.lt_combCount, not_and_or, not_ne_iff, Nat.not_lt]

theorem State.subCount_le {s : State} {k : Nat} : s.subCount ≤ k ↔ s.basisM = 0 ∨ 2 ^ (s.basisM - 1) ≤ k := by
  rw [← Nat.not_lt, State.lt_subCount, not_and_or, not_ne_iff, Nat.not_lt]

theorem beyondSpan_iff {s : State} {off : Nat} : beyondSpan s off ↔
    (∃ i, locate off = some (.basis i) ∧ s.basisM ≤ i) ∨ (∃ i, locate off = some (.comb i) ∧ s.combCount ≤ i) ∨
      ∃ k, locate off = some (.sub k) ∧ s.subCount ≤ k := by
  simp only [beyondSpan, locate_eq_some, Loc.inMap, Loc.offset, and_assoc, State.combCount_le, State.subCount_le]

/-! ## The refused accesses (R70) -/

@[simp] theorem tableEntry_eq_none {table : List Word} {count i : Nat} : tableEntry table count i = none ↔ count ≤ i := by
  simp [tableEntry]

/-- A read is refused exactly where the window has no word to give. -/
theorem refused_read_iff {s : State} {off : Nat} : refused s (.read off) ↔ s.window off = none := by
  rw [refused, unmapped_iff, beyondSpan_iff, beyondLength_iff, State.window]
  cases locate off with
  | none => simp
  | some l =>
    rw [Option.bind_some]
    cases l with
    | basis | comb | sub | elem => simp [State.readLoc]
    | id | ctrl | status | cmd | errinfo | errcmd | param | e | len => simp [State.readLoc]

/-- A write is refused exactly where its word takes none. -/
theorem refused_write_iff {s : State} {off : Nat} {v : Word} :
    refused s (.write off v) ↔ ((locate off).bind fun l => s.writeLoc l v) = none := by
  rw [refused, unmapped_iff, readOnly_iff, beyondLength_iff]
  cases locate off with
  | none => simp
  | some l =>
    rw [Option.bind_some]
    cases l with
    | elem => simp [State.writeLoc]
    | ctrl | status | cmd | e => simp [State.writeLoc]
    | id | errinfo | errcmd | param | len | basis | comb | sub => simp [State.writeLoc]

theorem State.hostWrite_of_refused {s : State} {off : Nat} {v : Word} (h : refused s (.write off v)) :
    s.hostWrite off v = { s with buserr := true } := by
  rw [State.hostWrite, refused_write_iff.mp h]
  rfl

/-- A write that is not refused takes the effect of its word. -/
theorem State.hostWrite_of_not_refused {s : State} {off : Nat} {v : Word} (h : ¬ refused s (.write off v)) :
    ∃ l, l.inMap ∧ off = l.offset ∧ s.writeLoc l v = some (s.hostWrite off v) := by
  obtain ⟨t, ht⟩ := Option.ne_none_iff_exists'.mp (mt refused_write_iff.mpr h)
  obtain ⟨l, hl, hw⟩ := Option.bind_eq_some_iff.mp ht
  obtain ⟨hmap, hoff⟩ := locate_eq_some.mp hl
  refine ⟨l, hmap, hoff, ?_⟩
  rw [State.hostWrite, ht]
  exact hw

/-- A write of a mapped word: what the word takes, or the refusal. -/
theorem State.hostWrite_offset {s : State} {l : Loc} (h : l.inMap) (v : Word) :
    s.hostWrite l.offset v = (s.writeLoc l v).getD s.refuse := by
  rw [State.hostWrite, locate_offset h, Option.bind_some]
  cases s.writeLoc l v <;> rfl

/-! ## `BUSERR` under the writes that are not refused (R26, R70) -/

theorem State.writeCtrl_buserr (s : State) (v : Word) :
    (s.writeCtrl v).buserr = s.buserr ∨ (s.writeCtrl v).buserr = false := by
  cases h : v.getLsbD 63 with
  | true => exact .inr (by rw [State.writeCtrl_reset h, State.toReset_buserr])
  | false =>
    by_cases hw : v.getLsbD 0 = s.width.toBool
    · exact .inl (by rw [State.writeCtrl_keep h hw])
    · exact .inl (by rw [State.writeCtrl_change h hw]; rfl)

theorem State.writeStatus_buserr (s : State) (v : Word) : (s.writeStatus v).buserr = (s.buserr && !v.getLsbD 3) := rfl

theorem State.issue_buserr (s : State) (w : Word) : (s.issue w).buserr = s.buserr := by
  unfold State.issue
  split
  · rfl
  · rfl

/-- A write that its word takes leaves `BUSERR` as it was, or clears it through `CTRL` or `STATUS`. -/
theorem State.writeLoc_buserr {s t : State} {l : Loc} {v : Word} (ht : s.writeLoc l v = some t) :
    t.buserr = s.buserr ∨ t.buserr = false ∧ (l = .ctrl ∨ l = .status) := by
  cases l with
  | ctrl => exact Option.some.inj ht ▸ (s.writeCtrl_buserr v).imp_right fun h => ⟨h, .inl rfl⟩
  | status =>
    rw [← Option.some.inj ht, State.writeStatus_buserr]
    cases v.getLsbD 3 with
    | true => exact .inr ⟨Bool.and_false _, .inr rfl⟩
    | false => exact .inl (Bool.and_true _)
  | cmd => exact .inl (Option.some.inj ht ▸ s.issue_buserr v)
  | e i => exact .inl (Option.some.inj ht ▸ rfl)
  | elem b i =>
    simp only [State.writeLoc, Option.ite_none_right_eq_some, Option.some.injEq] at ht
    obtain ⟨-, rfl⟩ := ht
    exact .inl rfl
  | id | errinfo | errcmd | param | len | basis | comb | sub => cases ht

/-! ## What no command writes (R37, R69, R291) -/

/-- `t` has the control bits, the access flags, the host's side and the parameters of `s`: what every command leaves, whether
it ends with an error or not. -/
structure CommandFrame (s t : State) : Prop where
  width : t.width = s.width
  ieDone : t.ieDone = s.ieDone
  ieErr : t.ieErr = s.ieErr
  buserr : t.buserr = s.buserr
  cmddrop : t.cmddrop = s.cmddrop
  inputs : t.inputs = s.inputs
  entropyDead : t.entropyDead = s.entropyDead
  rdata : t.rdata = s.rdata
  params : t.params = s.params

/-- The result is a next state, and it has the property. -/
def Leads (P : State → Prop) (r : Result) : Prop := ∃ t, r = .next t ∧ P t

namespace CommandFrame

theorem refl (s : State) : CommandFrame s s := ⟨rfl, rfl, rfl, rfl, rfl, rfl, rfl, rfl, rfl⟩

section Updates

variable {s t : State} (h : CommandFrame s t)
include h

theorem writeE (i : EReg) (v : Word) : CommandFrame s (t.writeE i v) := { h with }
theorem setBuf (b : PReg) (p : List Word) : CommandFrame s (t.setBuf b p) := { h with }
theorem setBasis (m : Nat) (bs cs ss : List Word) : CommandFrame s (t.setBasis m bs cs ss) := { h with }
theorem setEntropy (ws : List Word) : CommandFrame s (t.setEntropy ws) := { h with }
theorem nextDraw : CommandFrame s t.nextDraw := { h with }
theorem setTurns (ts : List Worker) : CommandFrame s (t.setTurns ts) := { h with }
theorem complete : CommandFrame s t.complete := { h with }
theorem fail (w : Word) (k : ErrKind) (sub : BitVec 8) (val : Nat) : CommandFrame s (t.fail w k sub val) := { h with }

theorem leads_finish : Leads (CommandFrame s) (finish t) := ⟨_, rfl, h.complete⟩

end Updates

variable (s : State)

theorem leads_raise (w : Word) (k : ErrKind) (sub : BitVec 8) (val : Nat) : Leads (CommandFrame s) (raise w k sub val s) :=
  ⟨_, rfl, (refl s).fail w k sub val⟩

theorem leads_writeE (d : EReg) (v : Word) : Leads (CommandFrame s) (finish (s.writeE d v)) :=
  ((refl s).writeE d v).leads_finish

theorem leads_setBuf (d : PReg) (p : List Word) : Leads (CommandFrame s) (finish (s.setBuf d p)) :=
  ((refl s).setBuf d p).leads_finish

variable {s}

/-- A check in front of the rest of a command. -/
theorem leads_check {c : Prop} [Decidable c] {w : Word} {k : ErrKind} {sub : BitVec 8} {val : Nat} {r : Result}
    (hr : Leads (CommandFrame s) r) : Leads (CommandFrame s) (if c then raise w k sub val s else r) := by
  split
  · exact leads_raise s w k sub val
  · exact hr

theorem leads_domainCheck {w : Word} {d : PReg} {r : Result} (hr : Leads (CommandFrame s) r) :
    Leads (CommandFrame s) (domainCheck w d s r) :=
  leads_check (leads_check hr)

theorem leads_convert (w : Word) (f : Nat → List Word → List Word) (d : PReg) : Leads (CommandFrame s) (convert w f d s) := by
  unfold convert
  split
  · exact leads_setBuf s d _
  · exact leads_raise s ..

theorem leads_writePair (d a : EReg) (r : Word × Word) : Leads (CommandFrame s) (finish (s.writePair d a r)) :=
  (((refl s).writeE d r.1).writeE a r.2).leads_finish

theorem leads_frand (d : EReg) : Leads (CommandFrame s) (execFrand d s) := by
  unfold execFrand
  split
  · exact (((refl s).setEntropy _).writeE d _).leads_finish
  · split
    · exact ⟨_, rfl, (refl s).setEntropy []⟩
    · exact (((refl s).setEntropy []).nextDraw.writeE d _).leads_finish

theorem leads_recover (d a b : PReg) (c : EReg) (dlen : BitVec 32) : Leads (CommandFrame s) (execRecover d a b c dlen s) := by
  refine leads_check (leads_check (leads_check (leads_check (leads_check ?_))))
  split
  · exact leads_raise s ..
  · exact leads_check (leads_check (leads_setBuf s d _))

/-- Every command answers a next state, and leaves what no command writes. -/
theorem leads_exec (i : Instr) (s : State) : Leads (CommandFrame s) (exec i s) := by
  cases i with
  | nop => exact (refl s).leads_finish
  | fadd d | fsub d | fneg d | fmul d | fmuln d | fsqr d | finv d | eval d => exact leads_writeE s d _
  | fbfly d a | fibfly d a => exact leads_check (leads_writePair d a _)
  | frand d => exact leads_frand d
  | basis a m => exact leads_check (leads_check ((refl s).setBasis ..).leads_finish)
  | radix d | iradix d => exact leads_convert _ _ d
  | fft d | ifft d | fftl d | ifftl d => exact leads_domainCheck (leads_setBuf s d _)
  | fftp d | ifftp d => exact leads_domainCheck (((refl s).setBuf d _).setTurns _).leads_finish
  | pmuln d | muls d | resize d => exact leads_check (leads_setBuf s d _)
  | pmul d => exact leads_check (leads_check (leads_check (leads_check (leads_setBuf s d _))))
  | pdiv d | zpoly d => exact leads_check (leads_check (leads_check (leads_setBuf s d _)))
  | encode d => exact leads_check (leads_check (leads_setBuf s d _))
  | recover d a b c dlen => exact leads_recover d a b c dlen
  | subst d | invs d | trim d | copy d => exact leads_setBuf s d _

/-- The engine's step leaves what no command writes: it idles, runs a command, or raises `E_ILLEGAL` (R96). -/
theorem leads_engineStep (s : State) : Leads (CommandFrame s) (engineStep s) := by
  unfold engineStep
  split
  · exact ⟨s, rfl, refl s⟩
  · split
    · exact leads_exec _ s
    · exact leads_raise s ..

end CommandFrame

/-! ## The held accesses (R69) -/

theorem step_access {s : State} {a : Access} {rest : List Input} (h : s.inputs = .access a :: rest) :
    step s = accessStep a rest s := by
  simp only [step, nextStep, h]

/-- While a command is in flight a held access stays where it is, and the step leaves what no command writes. -/
theorem step_held {s : State} {a : Access} {rest : List Input} (h : s.inputs = .access a :: rest) (hb : s.busy = true)
    (ha : heldWhileBusy a = true) : Leads (CommandFrame s) (step s) := by
  rw [step_access h, accessStep_held hb ha]
  exact CommandFrame.leads_engineStep s

theorem inputs_of_held {s : State} {a : Access} {rest : List Input} (h : s.inputs = .access a :: rest) (hb : s.busy = true)
    (ha : heldWhileBusy a = true) : ∃ t, step s = .next t ∧ t.inputs = s.inputs := by
  obtain ⟨t, ht, hf⟩ := step_held h hb ha
  exact ⟨t, ht, hf.inputs⟩

theorem heldWhileBusy_read {off : Nat} (h : 0x010 ≤ off) : heldWhileBusy (.read off) = true := by
  refine decide_eq_true ?_
  simp only [List.mem_cons, List.not_mem_nil, or_false, not_or]
  omega

theorem heldWhileBusy_write {off : Nat} (h : off ≠ 0x002) (v : Word) : heldWhileBusy (.write off v) = true :=
  decide_eq_true h

/-! ## The narrow store (R66) -/

/-- Cutting a word to the active field keeps its low `n` bits, zero-extended. -/
theorem State.and_mask_eq_narrow (s : State) (v : Word) : v &&& s.field.mask = narrow s.width v := by
  cases hW : s.width with
  | gf16 =>
    have hm : s.field.mask.toNat = 2 ^ 16 - 1 := by rw [GF.mask, State.field_n, hW]; rfl
    apply BitVec.eq_of_toNat_eq
    rw [BitVec.toNat_and, hm, Nat.and_two_pow_sub_one_eq_mod]
    simp only [narrow, BitVec.toNat_setWidth]
    omega
  | gf64 =>
    have hm : s.field.mask = BitVec.allOnes 64 := by rw [GF.mask, State.field_n, hW]; rfl
    rw [hm, BitVec.and_allOnes]
    rfl

end Sys2Proof.Machine

namespace Sys2Proof.Proofs

open Sys2Proof.Machine Sys2Proof.Reference

/-- Settles O14, from the window's refusals and from what a command leaves (R70). -/
theorem refusedAccessesSetBuserr : Obligations.RefusedAccessesSetBuserr := by
  refine ⟨fun s off h => ?_, fun s off h => ?_, fun s off v h => State.hostWrite_of_refused h, fun s off v h hset => ?_,
    fun s => rfl, fun s off v hset hctrl hstatus => ?_, fun i s t ht => ?_⟩
  · obtain ⟨v, hv, -⟩ | ⟨-, hread⟩ := s.hostRead_cases off
    · exact absurd (refused_read_iff.mp h) (by simp [hv])
    · exact hread
  · obtain hread | ⟨hnone, -⟩ := s.hostRead_cases off
    · exact hread
    · exact absurd (refused_read_iff.mpr hnone) h
  · obtain ⟨l, -, -, hw⟩ := State.hostWrite_of_not_refused h
    obtain hsame | ⟨hclear, -⟩ := State.writeLoc_buserr hw
    · exact hsame ▸ hset
    · exact absurd hset (by simp [hclear])
  · by_cases h : refused s (.write off v)
    · rw [State.hostWrite_of_refused h]
    · obtain ⟨l, -, hoff, hw⟩ := State.hostWrite_of_not_refused h
      obtain hsame | ⟨-, rfl | rfl⟩ := State.writeLoc_buserr hw
      · exact hsame.trans hset
      · exact absurd hoff hctrl
      · exact absurd hoff hstatus
  · obtain ⟨t', ht', hframe⟩ := CommandFrame.leads_exec i s
    obtain rfl : t' = t := by simpa [ht'] using ht
    exact hframe.buserr

/-- Settles O15, word by word of the address map (R65, R68); the held reads wait as R69 says. -/
theorem lengthsAndTablesAreReadOnly : Obligations.LengthsAndTablesAreReadOnly := by
  refine ⟨fun s b => ⟨State.window_offset (l := .len b) trivial, fun v => State.hostWrite_offset (l := .len b) trivial v⟩,
    fun s i hi => State.window_offset (l := .basis i) hi, fun s i hi => ?_, fun s k hk => ?_,
    fun s off v h => State.hostWrite_of_refused ?_, fun s off rest hoff hb hin => ?_⟩
  · refine (State.window_offset (l := .comb i) hi).trans ?_
    simp only [State.readLoc, tableEntry, State.lt_combCount, at']
  · refine (State.window_offset (l := .sub k) hk).trans ?_
    simp only [State.readLoc, tableEntry, State.lt_subCount, at']
  · have hro : readOnly off := by simp only [readOnly, h, or_true]
    exact .inr (.inl hro)
  · have hlow : 0x010 ≤ off := by
      unfold tableOffset at hoff
      omega
    exact inputs_of_held hin hb (heldWhileBusy_read hlow)

/-- Settles O16: the words of the map that hold elements, cut to the field by the narrow store (R64, R66, R67). -/
theorem elementsInTheWindow : Obligations.ElementsInTheWindow := by
  refine ⟨fun s i => ⟨?_, fun v => ?_⟩, fun s b i hi hlen => ⟨?_, fun v => ?_⟩, fun s b i hi hlen => ⟨?_, fun v => ?_⟩,
    fun s off rest hoff hb hin => ?_⟩
  · refine (State.window_offset (l := .e i) trivial).trans ?_
    rw [State.readLoc, State.readE, State.and_mask_eq_narrow, reg]
  · refine (State.hostWrite_offset (l := .e i) trivial v).trans ?_
    rw [State.writeLoc, State.and_mask_eq_narrow]
    rfl
  · refine (State.window_offset (l := .elem b i) hi).trans ?_
    rw [State.readLoc, if_pos hlen, State.and_mask_eq_narrow, at']
  · refine (State.hostWrite_offset (l := .elem b i) hi v).trans ?_
    rw [State.writeLoc, if_pos hlen, State.and_mask_eq_narrow]
    rfl
  · refine (State.window_offset (l := .elem b i) hi).trans ?_
    rw [State.readLoc, if_neg (Nat.not_lt.mpr hlen)]
  · exact State.hostWrite_of_refused (.inr (.inr ⟨b, i, hi, rfl, hlen⟩))
  · have hlow : 0x010 ≤ off := by omega
    obtain hin | ⟨v, hin⟩ := hin
    · exact inputs_of_held hin hb (heldWhileBusy_read hlow)
    · exact inputs_of_held hin hb (heldWhileBusy_write (by omega) v)

end Sys2Proof.Proofs

/-!
PROOFS. The command word (30_encoding.md): the row a word's opcode selects and what `decode` makes of the word there (R95, R100),
and the run of a word that is no command (R96).
-/

namespace Sys2Proof

open Laws

/-! ## The opcode as the selector of a row (R92, R95) -/

theorem opcodeOf_and (v w : Word) : opcodeOf (v &&& w) = opcodeOf v &&& opcodeOf w := BitVec.extractLsb'_and

theorem toNat_opcodeOf (w : Word) : (opcodeOf w).toNat = w.toNat / 2 ^ 56 := by
  have hw : w.toNat / 2 ^ 56 < 2 ^ 8 := by omega
  rw [opcodeOf, BitVec.extractLsb'_toNat, Nat.shiftRight_eq_div_pow, Nat.mod_eq_of_lt hw]

/-- Every format fixes the whole opcode (R92). -/
theorem opcodeOf_mask (f : Format) : opcodeOf f.mask = BitVec.allOnes 8 := by cases f <;> decide

/-- A word that passes the mask test of a row has the row's opcode. -/
theorem opcodeOf_of_match {r : Row} {w : Word} (h : w &&& r.fmt.mask = r.matchWord) : opcodeOf w = r.opcode :=
  calc opcodeOf w = opcodeOf (w &&& r.fmt.mask) := by rw [opcodeOf_and, opcodeOf_mask, BitVec.and_allOnes]
    _ = r.opcode := by rw [h, matchWord_eq, opcodeOf_pack]

theorem nodup_opcodes : (rows.map (·.opcode)).Nodup := by decide

theorem row_eq_of_opcode_eq {r r' : Row} (hr : r ∈ rows) (hr' : r' ∈ rows) (h : r.opcode = r'.opcode) : r = r' :=
  List.inj_on_of_nodup_map nodup_opcodes hr hr' h

/-- At most one row matches a word: the matching rows share its opcode, and no opcode stands twice in the map. -/
theorem length_filter_match_le_one (w : Word) : (rows.filter fun r => w &&& r.fmt.mask == r.matchWord).length ≤ 1 :=
  calc (rows.filter fun r => w &&& r.fmt.mask == r.matchWord).length
      = rows.countP fun r => w &&& r.fmt.mask == r.matchWord := List.countP_eq_length_filter.symm
    _ ≤ rows.countP fun r => r.opcode == opcodeOf w :=
      List.countP_mono_left fun r _ h => beq_iff_eq.mpr (opcodeOf_of_match (beq_iff_eq.mp h)).symm
    _ = (rows.map (·.opcode)).count (opcodeOf w) := by rw [List.count, List.countP_map]; rfl
    _ ≤ 1 := List.nodup_iff_count_le_one.mp nodup_opcodes _

/-! ## What `decode` answers (R100) -/

/-- A word whose opcode no row has. -/
theorem decode_of_not_mem {w : Word} (h : opcodeOf w ∉ rows.map (·.opcode)) : decode w = .error .unassignedOpcode := by
  have hnone : rows.find? (fun r => r.opcode == opcodeOf w) = none :=
    List.find?_eq_none.mpr fun r hr ho => h (List.mem_map.mpr ⟨r, hr, beq_iff_eq.mp ho⟩)
  rw [decode, hnone]

/-- A word with the opcode of the row `r`. -/
theorem decode_of_opcode {r : Row} {w : Word} (hr : r ∈ rows) (ho : opcodeOf w = r.opcode) :
    decode w = if w &&& r.fmt.mask = r.matchWord then
        if (r.build (fieldsOf w)).wellFormed then .ok (r.build (fieldsOf w)) else .error .sameRegister
      else .error .fieldNotZero := by
  have hfind : rows.find? (fun r => r.opcode == opcodeOf w) = some r := by
    cases h : rows.find? (fun r => r.opcode == opcodeOf w) with
    | none => exact absurd (beq_iff_eq.mpr ho.symm) (List.find?_eq_none.mp h r hr)
    | some r' =>
      have ho' : r'.opcode = opcodeOf w := by simpa using List.find?_some h
      rw [row_eq_of_opcode_eq (List.mem_of_find?_eq_some h) hr (ho'.trans ho)]
  rw [decode, hfind]

/-- A word that fails the mask test of its opcode's row (R93). -/
theorem decode_of_not_match {r : Row} {w : Word} (hr : r ∈ rows) (ho : opcodeOf w = r.opcode)
    (hm : w &&& r.fmt.mask ≠ r.matchWord) : decode w = .error .fieldNotZero := by
  rw [decode_of_opcode hr ho, if_neg hm]

/-- A word that passes the mask test of a row: the command built there, unless it is a butterfly on one register. -/
theorem decode_of_match {r : Row} {w : Word} (hr : r ∈ rows) (hm : w &&& r.fmt.mask = r.matchWord) :
    decode w = if (r.build (fieldsOf w)).wellFormed then .ok (r.build (fieldsOf w)) else .error .sameRegister := by
  rw [decode_of_opcode hr (opcodeOf_of_match hm), if_pos hm]

theorem decode_eq_unassigned_iff {w : Word} :
    decode w = .error .unassignedOpcode ↔ opcodeOf w ∉ rows.map (·.opcode) := by
  refine ⟨fun h hmem => ?_, decode_of_not_mem⟩
  obtain ⟨r, hr, ho⟩ := List.mem_map.mp hmem
  rw [decode_of_opcode hr ho.symm] at h
  split at h
  · split at h
    · cases h
    · cases h
  · cases h

theorem decode_eq_ok_iff {w : Word} {i : Instr} : decode w = .ok i ↔
    ∃ r ∈ rows, w &&& r.fmt.mask = r.matchWord ∧ r.build (fieldsOf w) = i ∧ i.wellFormed = true := by
  constructor
  · intro h
    by_cases hmem : opcodeOf w ∈ rows.map (·.opcode)
    · obtain ⟨r, hr, ho⟩ := List.mem_map.mp hmem
      by_cases hm : w &&& r.fmt.mask = r.matchWord
      · rw [decode_of_match hr hm] at h
        split at h
        · next hwf =>
          cases h
          exact ⟨r, hr, hm, rfl, hwf⟩
        · cases h
      · rw [decode_of_not_match hr ho.symm hm] at h
        cases h
    · rw [decode_of_not_mem hmem] at h
      cases h
  · rintro ⟨r, hr, hm, rfl, hwf⟩
    rw [decode_of_match hr hm, if_pos hwf]

/-- The commands without a word are the butterflies on one register (R101). -/
theorem wellFormed_iff {i : Instr} : i.wellFormed = true ↔ ¬ ∃ d b : EReg, i = .fbfly d d b ∨ i = .fibfly d d b := by
  cases i with
  | fbfly d a b => simp [Instr.wellFormed, eq_comm (a := d)]
  | fibfly d a b => simp [Instr.wellFormed, eq_comm (a := d)]
  | _ => simp [Instr.wellFormed]

/-- The word of a command decodes through the row of its opcode, where that row builds the command again. -/
theorem decode_encode_of_row {i : Instr} {r : Row} (hr : r ∈ rows) (hfits : EncodingFits.Statement i)
    (ho : opcodeOf (encode i) = r.opcode) (hb : r.build (fieldsOf (encode i)) = i) :
    decode (encode i) = if i.wellFormed then .ok i else .error .sameRegister := by
  obtain ⟨r', hr', ho', hm⟩ := hfits
  obtain rfl := row_eq_of_opcode_eq hr hr' (ho.symm.trans ho')
  rw [decode_of_match hr hm, hb]

theorem decode_encode_fbfly (d a b : EReg) :
    decode (encode (.fbfly d a b)) = if d = a then .error .sameRegister else .ok (.fbfly d a b) := by
  rw [decode_encode_of_row (row_mem 8 (by decide)) (EncodingFits.fbfly d a b) (opcodeOf_pack ..) (by rw [encode, fieldsOf_pack]; rfl)]
  simp [Instr.wellFormed, ite_not]

theorem decode_encode_fibfly (d a b : EReg) :
    decode (encode (.fibfly d a b)) = if d = a then .error .sameRegister else .ok (.fibfly d a b) := by
  rw [decode_encode_of_row (row_mem 9 (by decide)) (EncodingFits.fibfly d a b) (opcodeOf_pack ..) (by rw [encode, fieldsOf_pack]; rfl)]
  simp [Instr.wellFormed, ite_not]

/-- The row of `NOP` is the one that builds it; its mask fixes all 64 bits to zero (R95). -/
theorem match_of_build_nop {r : Row} (hr : r ∈ rows) {f : Fields} (hb : r.build f = .nop) :
    r.fmt.mask = BitVec.allOnes 64 ∧ r.matchWord = 0#64 := by
  have hrow : r.opcode = 0x00#8 ∧ r.fmt = .fN := by
    revert r
    simp [rows, rowsKernel, rowsTransform, rowsPoly]
  obtain ⟨hop, hfmt⟩ := hrow
  rw [Row.matchWord, hop, hfmt]
  exact ⟨rfl, by decide⟩

theorem decode_eq_nop_iff {w : Word} : decode w = .ok .nop ↔ w = 0#64 := by
  constructor
  · intro h
    obtain ⟨r, hr, hm, hb, -⟩ := decode_eq_ok_iff.mp h
    obtain ⟨hmask, hword⟩ := match_of_build_nop hr hb
    rwa [hmask, hword, BitVec.and_allOnes] at hm
  · rintro rfl
    rfl

/-- The eight ranges of unassigned opcodes (R96). -/
theorem opcode_not_mem_iff : ∀ op : BitVec 8, op ∉ rows.map (·.opcode) ↔
    (0x01 ≤ op.toNat ∧ op.toNat ≤ 0x0F) ∨ (0x1A ≤ op.toNat ∧ op.toNat ≤ 0x1F) ∨ (0x21 ≤ op.toNat ∧ op.toNat ≤ 0x2F) ∨
    (0x32 ≤ op.toNat ∧ op.toNat ≤ 0x3F) ∨ (0x46 ≤ op.toNat ∧ op.toNat ≤ 0x4F) ∨ (0x58 ≤ op.toNat ∧ op.toNat ≤ 0x5F) ∨
    (0x62 ≤ op.toNat ∧ op.toNat ≤ 0x6F) ∨ 0x73 ≤ op.toNat := by decide

end Sys2Proof

namespace Sys2Proof.Machine

/-! ## The run of a word that is no command (R96) -/

theorem engineStep_illegal {s : State} {w : Word} (hw : ∀ i, decode w ≠ .ok i) (hs : s.inflight = some w) :
    engineStep s = .next (s.fail w .illegal 0#8 0) := by
  rw [engineStep_eq, hs]
  cases hd : decode w with
  | ok i => exact absurd hd (hw i)
  | error e => simp only [hd]

/-- A write of `CMD` to an idle block that is not in the error state is accepted, whatever the word (R245). -/
theorem step_cmdWrite {s : State} {w : Word} {rest : List Input} (hb : s.busy = false) (he : s.errf = false)
    (h : s.inputs = .access (.write 0x003 w) :: rest) : step s = .next { s with inflight := some w, inputs := rest } := by
  have hwrite : (s.setInputs rest).hostWrite 0x003 w = (s.setInputs rest).issue w :=
    State.hostWrite_offset (l := .cmd) trivial w
  have hissue : (s.setInputs rest).issue w = { s with inflight := some w, inputs := rest } := by
    rw [State.issue, State.setInputs_errf, he]
    rfl
  rw [step_access h, accessStep_free (by rw [hb, Bool.false_and]), State.hostAccess, hwrite, hissue]

end Sys2Proof.Machine

namespace Sys2Proof.Proofs

open Sys2Proof.Machine

/-- Settles O5: the opcodes of the map are pairwise different, and a word that passes a row's mask has its opcode (R100). -/
theorem decodeIsTheRowMatch : Obligations.DecodeIsTheRowMatch := by
  refine fun w => ⟨fun i => ?_, length_filter_match_le_one w⟩
  rw [decode_eq_ok_iff, wellFormed_iff]

/-- Settles O6, clause by clause: the opcode is the top byte, each row's mask test, the butterflies, `NOP`, and the two steps of
an illegal word (R96). -/
theorem illegalWordsRaiseIllegal : Obligations.IllegalWordsRaiseIllegal := by
  refine ⟨fun w => ?_, fun w r hr => decode_of_not_match hr, fun d b => ⟨?_, ?_⟩, fun w => decode_eq_nop_iff,
    fun s w hw => ⟨fun hs hin => ?_, step_cmdWrite⟩⟩
  · rw [decode_eq_unassigned_iff, opcode_not_mem_iff, toNat_opcodeOf]
  · rw [decode_encode_fbfly, if_pos rfl]
  · rw [decode_encode_fibfly, if_pos rfl]
  · have hstep : step s = engineStep s := by simp only [step, nextStep, hin]
    exact hstep.trans (engineStep_illegal hw hs)

end Sys2Proof.Proofs

/-!
PROOFS. The Field Kernel's multipliers and inverse (40_field_kernel.md R122 to R125): a word stands for its residue modulo the
polynomial of the field, both multipliers multiply residues, and an element is determined by its residue.
-/

namespace Sys2Proof.Machine

open Polynomial

/-! ## Loops over a range -/

/-- What an upward loop holds: `P k` before turn `k`. -/
theorem foldl_range_induction {σ : Type} {P : Nat → σ → Prop} {f : σ → Nat → σ} {s : σ} (h0 : P 0 s)
    (hstep : ∀ k s, P k s → P (k + 1) (f s k)) (n : Nat) : P n ((List.range n).foldl f s) := by
  induction n with
  | zero => exact h0
  | succ n ih =>
    rw [List.range_succ, List.foldl_append]
    exact hstep n _ ih

/-- What a downward loop holds: `P (t + 1)` before turn `t`. -/
theorem foldr_range_induction {σ : Type} {P : Nat → σ → Prop} {f : Nat → σ → σ} {n : Nat} {s : σ} (hn : P n s)
    (hstep : ∀ t s, t < n → P (t + 1) s → P t (f t s)) : P 0 ((List.range n).foldr f s) := by
  induction n generalizing s with
  | zero => exact hn
  | succ n ih =>
    rw [List.range_succ, List.foldr_append]
    exact ih (hstep n s n.lt_succ_self hn) fun t s ht => hstep t s (Nat.lt_succ_of_lt ht)

/-! ## Residues modulo the polynomial of the field (R6, R9) -/

/-- What a word stands for in the field: its polynomial modulo `POLY_n` (R9). The polynomial need not be irreducible. -/
noncomputable def GF.residue (F : GF) {k : Nat} (w : BitVec k) : AdjoinRoot (toPoly F.poly) :=
  AdjoinRoot.mk _ (toPoly w)

/-- The low `k` bits of a word as a sum of powers of `x`, modulo `POLY_n`. -/
noncomputable def GF.lowResidue (F : GF) (w : Word) (k : Nat) : AdjoinRoot (toPoly F.poly) :=
  ∑ i ∈ Finset.range k, if w.getLsbD i then AdjoinRoot.root _ ^ i else 0

/-- What the loop of R122 holds before turn `k`: `a` times the low `k` bits of `b`, and `a` times `x^k`. -/
structure GF.NaiveHolds (F : GF) (a b : Word) (k : Nat) (s : Word × Word) : Prop where
  product : F.residue s.1 = F.residue a * F.lowResidue b k
  isElem : IsElem F.n s.2
  shifted : F.residue s.2 = F.residue a * AdjoinRoot.root _ ^ k

/-- What the reduction of R123 holds before it clears bit `n + t - 1`: nothing above that bit, and the residue of the product. -/
structure GF.ReduceHolds (F : GF) (c : BitVec 128) (t : Nat) (r : BitVec 128) : Prop where
  cleared : ∀ i, F.n + t ≤ i → r.getLsbD i = false
  residue : F.residue r = F.residue c

/-- What the chain of R125 holds after `k` links: the product of `a^2`, `a^4` and so on up to `a^(2^k)`, whose exponents sum to
`2^(k+1) - 2`, and the last of them. -/
structure GF.InvHolds (F : GF) (a : Word) (k : Nat) (rx : Word × Word) : Prop where
  isElem : IsElem F.n rx.1 ∧ IsElem F.n rx.2
  product : F.residue rx.1 = F.residue a ^ (2 ^ (k + 1) - 2)
  square : F.residue rx.2 = F.residue a ^ 2 ^ k

variable (F : GF)

@[simp] theorem GF.residue_zero {k : Nat} : F.residue (0#k) = 0 := by simp [GF.residue]

@[simp] theorem GF.residue_one : F.residue 1#64 = 1 := by
  have h : toPoly 1#64 = 1 := by
    ext i
    rw [toPoly_coeff, coeff_one, BitVec.getLsbD_one]
    simp
  rw [GF.residue, h, map_one]

@[simp] theorem GF.residue_xor {k : Nat} (v w : BitVec k) : F.residue (v ^^^ w) = F.residue v + F.residue w := by
  rw [GF.residue, toPoly_xor, map_add]
  rfl

theorem GF.residue_setWidth {k l : Nat} (h : k ≤ l) (w : BitVec k) : F.residue (w.setWidth l) = F.residue w := by
  rw [GF.residue, toPoly_setWidth h]
  rfl

/-- An element's residue is that of its low `n` bits. -/
theorem GF.residue_eq_lowResidue {n : Nat} (hn : n ≤ 64) {w : Word} (hw : IsElem n w) : F.residue w = F.lowResidue w n := by
  have hlow : toPoly w = ∑ i ∈ Finset.range n, if w.getLsbD i then X ^ i else 0 := by
    refine (Finset.sum_subset (Finset.range_subset_range.mpr hn) fun i _ hi => ?_).symm
    rw [isElem_iff_getLsbD.mp hw i (by simpa using hi)]
    rfl
  rw [GF.residue, hlow, map_sum]
  refine Finset.sum_congr rfl fun i _ => ?_
  rw [apply_ite (AdjoinRoot.mk _), map_pow, AdjoinRoot.mk_X, map_zero]

theorem Params.fieldOk (P : Params) (W : Width) : Reference.FieldOk (P.field W) where
  width := by simpa using W.bits_le
  reduced := by
    rw [Params.field_n]
    exact P.field_red_lt W

/-- `MASK_n` has exactly the bits below `n` (R8). -/
theorem GF.mask_getLsbD (hn : F.n ≤ 64) (i : Nat) : F.mask.getLsbD i = decide (i < F.n) := by
  rw [GF.mask, BitVec.getLsbD_ofNat, Nat.testBit_two_pow_sub_one]
  simp only [Bool.and_eq_right_iff_imp, decide_eq_true_eq]
  omega

end Sys2Proof.Machine

namespace Sys2Proof.Reference

open Sys2Proof.Machine

variable {F : GF} (hF : FieldOk F)
include hF

/-- `POLY_n` is zero modulo itself, shifted or not. -/
theorem FieldOk.residue_poly_shiftLeft {t : Nat} (ht : F.n + t < 128) : F.residue (F.poly <<< t) = 0 := by
  rw [GF.residue, toPoly_shiftLeft, map_mul, AdjoinRoot.mk_self, zero_mul]
  intro j hj
  rw [hF.poly_getLsbD (by omega)]
  exact decide_eq_false (by omega)

/-- One turn of the reduction keeps the residue (R123). -/
theorem FieldOk.residue_reduceTurn {t : Nat} (ht : F.n + t < 128) (c : BitVec 128) :
    F.residue (if c.getLsbD (F.n + t) then c ^^^ (F.poly <<< t) else c) = F.residue c := by
  split
  · rw [GF.residue_xor, hF.residue_poly_shiftLeft ht, add_zero]
  · rfl

/-- An element is determined by its residue: `POLY_n` divides no nonzero polynomial of lower degree. -/
theorem FieldOk.eq_of_residue_eq {v w : Word} (hv : IsElem F.n v) (hw : IsElem F.n w) (h : F.residue v = F.residue w) :
    v = w := by
  have hxor : F.residue (v ^^^ w) = 0 := by
    rw [F.residue_xor, h, ← F.residue_xor, BitVec.xor_self, F.residue_zero]
  have hdeg : (F.n : WithBot ℕ) ≤ (toPoly F.poly).degree := Polynomial.le_degree_of_ne_zero (by
    rw [toPoly_coeff, hF.poly_getLsbD le_rfl]
    simp)
  have hzero := Polynomial.eq_zero_of_dvd_of_degree_lt (AdjoinRoot.mk_eq_zero.mp hxor)
    (((toPoly_degree_lt _ _).mpr (hv.xor hw)).trans_le hdeg)
  exact BitVec.xor_eq_zero_iff.mp (toPoly_injective (hzero.trans toPoly_zero.symm))

/-! ## The two-step multiplier (R123) -/

theorem FieldOk.reduceTurn {c : BitVec 128} {t : Nat} (ht : F.n + t < 128) {r : BitVec 128} (h : F.ReduceHolds c (t + 1) r) :
    F.ReduceHolds c t (if r.getLsbD (F.n + t) then r ^^^ (F.poly <<< t) else r) :=
  ⟨hF.reduceTurn_getLsbD ht h.cleared, (hF.residue_reduceTurn ht r).trans h.residue⟩

/-- The reduction keeps the residue of a product of `2n - 1` bits: the cut to a word drops no bit (R123). -/
theorem FieldOk.residue_reduce {c : BitVec 128} (hc : ∀ i, F.n + (F.n - 1) ≤ i → c.getLsbD i = false) :
    F.residue (F.reduce c) = F.residue c := by
  have hn := hF.width.2
  obtain ⟨hbits, hres⟩ := foldr_range_induction (P := F.ReduceHolds c) (n := F.n - 1) ⟨hc, rfl⟩
    fun t r ht => hF.reduceTurn (by omega)
  rw [← hres, ← F.residue_setWidth (show 64 ≤ 128 by decide), GF.reduce]
  congr 1
  apply BitVec.eq_of_getLsbD_eq
  intro i hi
  rw [BitVec.getLsbD_setWidth, BitVec.getLsbD_setWidth, decide_eq_true hi, Bool.true_and, Bool.and_eq_right_iff_imp]
  intro hset
  by_contra hge
  have hge : 64 ≤ i := by simpa using hge
  simp [hbits i (by omega)] at hset

/-- `mul` multiplies residues: the carry-less product does, and the reduction keeps the residue (R123). -/
theorem FieldOk.residue_mul {a b : Word} (ha : IsElem F.n a) (hb : IsElem F.n b) :
    F.residue (F.mul a b) = F.residue a * F.residue b := by
  rw [GF.mul_eq, hF.residue_reduce (GF.clmul_getLsbD ha b), GF.residue, toPoly_clmul hF.width.2 a b hb, map_mul]
  rfl

/-! ## The reference multiplier (R122) -/

theorem FieldOk.poly_getLsbD_of_lt {i : Nat} (hi : i < F.n) : F.poly.getLsbD i = F.red.getLsbD i := by
  have hn := hF.width.2
  have hi' : i < 128 := by omega
  simp only [GF.poly, BitVec.getLsbD_or, BitVec.getLsbD_shiftLeft, BitVec.getLsbD_setWidth, hi, hi', decide_true,
    Bool.not_true, Bool.and_false, Bool.false_and, Bool.false_or, Bool.true_and]

/-- The two statements of R122 that multiply by `x` are a shift and one turn of the reduction of R123. -/
theorem FieldOk.setWidth_xtime {a : Word} (ha : IsElem F.n a) : (F.xtime a).setWidth 128 =
    if (a.setWidth 128 <<< 1).getLsbD (F.n + 0) then (a.setWidth 128 <<< 1) ^^^ (F.poly <<< 0) else a.setWidth 128 <<< 1 := by
  obtain ⟨hpos, hn⟩ := hF.width
  have hshift {i : Nat} (hi : i < 128) : (a.setWidth 128 <<< 1).getLsbD i = (!decide (i < 1) && a.getLsbD (i - 1)) := by
    have hi' : i - 1 < 128 := by omega
    simp only [BitVec.getLsbD_shiftLeft, BitVec.getLsbD_setWidth, hi, hi', decide_true, Bool.true_and]
  apply BitVec.eq_of_getLsbD_eq
  intro i hi
  rw [BitVec.getLsbD_setWidth, decide_eq_true hi, Bool.true_and]
  rcases Nat.lt_or_ge i F.n with hlt | hge
  · have hcarry : (a.setWidth 128 <<< 1).getLsbD (F.n + 0) = a.getLsbD (F.n - 1) := by
      rw [hshift (by omega), decide_eq_false (by omega), Bool.not_false, Bool.true_and, Nat.add_zero]
    have hcut : ((a <<< 1) &&& F.mask).getLsbD i = (a.setWidth 128 <<< 1).getLsbD i := by
      rw [hshift hi, BitVec.getLsbD_and, F.mask_getLsbD hn, decide_eq_true hlt, Bool.and_true, BitVec.getLsbD_shiftLeft,
        decide_eq_true (by omega), Bool.true_and]
    rw [GF.xtime, hcarry, BitVec.shiftLeft_zero]
    split
    · rw [BitVec.getLsbD_xor, BitVec.getLsbD_xor, hcut, hF.poly_getLsbD_of_lt hlt]
    · exact hcut
  · rw [isElem_iff_getLsbD.mp (hF.xtime a) i hge]
    refine (hF.reduceTurn_getLsbD (by omega) (fun j hj => ?_) i hge).symm
    simp [isElem_iff_getLsbD.mp ha (j - 1) (by omega)]

theorem FieldOk.residue_xtime {a : Word} (ha : IsElem F.n a) :
    F.residue (F.xtime a) = F.residue a * AdjoinRoot.root _ := by
  have hn := hF.width.2
  rw [← F.residue_setWidth (show 64 ≤ 128 by decide), hF.setWidth_xtime ha, hF.residue_reduceTurn (by omega), GF.residue,
    toPoly_widen_shiftLeft a (by decide), pow_one, map_mul, AdjoinRoot.mk_X]
  rfl

theorem FieldOk.naiveStep {a b : Word} {k : Nat} {s : Word × Word} (h : F.NaiveHolds a b k s) :
    F.NaiveHolds a b (k + 1) (F.naiveStep b s k) where
  product := by
    rw [GF.naiveStep, GF.lowResidue, Finset.sum_range_succ, mul_add, ← GF.lowResidue, ← h.product]
    split
    · rw [GF.residue_xor, h.shifted]
    · rw [mul_zero, add_zero]
  isElem := hF.xtime _
  shifted := by rw [GF.naiveStep, hF.residue_xtime h.isElem, h.shifted, pow_succ, mul_assoc]

/-- `mul_naive` multiplies residues (R122). -/
theorem FieldOk.residue_mulNaive {a b : Word} (ha : IsElem F.n a) (hb : IsElem F.n b) :
    F.residue (F.mulNaive a b) = F.residue a * F.residue b := by
  have hstart : F.NaiveHolds a b 0 (0#64, a) := ⟨by simp [GF.lowResidue], ha, by rw [pow_zero, mul_one]⟩
  have hend := foldl_range_induction hstart (fun k s => hF.naiveStep) F.n
  rw [GF.mulNaive_eq, hend.product, F.residue_eq_lowResidue hF.width.2 hb]

/-- The two multipliers agree (R123). -/
theorem FieldOk.mul_eq_mulNaive {a b : Word} (ha : IsElem F.n a) (hb : IsElem F.n b) : F.mul a b = F.mulNaive a b :=
  hF.eq_of_residue_eq (hF.mul ha b) (hF.mulNaive ha b) ((hF.residue_mul ha hb).trans (hF.residue_mulNaive ha hb).symm)

/-! ## Powers and the inversion chain (R125) -/

theorem FieldOk.power (a : Word) (k : Nat) : IsElem F.n (Reference.power F a k) := by
  induction k with
  | zero => exact .one hF.width.1
  | succ k ih => exact hF.mul ih a

theorem FieldOk.residue_power {a : Word} (ha : IsElem F.n a) (k : Nat) :
    F.residue (Reference.power F a k) = F.residue a ^ k := by
  induction k with
  | zero => exact F.residue_one
  | succ k ih => rw [Reference.power, hF.residue_mul (hF.power a k) ha, ih, pow_succ]

theorem FieldOk.invStep {a : Word} {k : Nat} {rx : Word × Word} (h : F.InvHolds a k rx) :
    F.InvHolds a (k + 1) (F.invStep rx) := by
  obtain ⟨⟨hr, hx⟩, hproduct, hsquare⟩ := h
  have hsqr : IsElem F.n (F.sqr rx.2) := hF.mul hx _
  have hnext : F.residue (F.sqr rx.2) = F.residue a ^ 2 ^ (k + 1) := by
    rw [GF.sqr_eq, hF.residue_mul hx hx, hsquare, ← pow_add, ← two_mul, ← pow_succ']
  have hexp : 2 ^ (k + 1) - 2 + 2 ^ (k + 1) = 2 ^ (k + 1 + 1) - 2 := by
    have := Nat.one_le_two_pow (n := k)
    omega
  refine ⟨⟨hF.mul hr _, hsqr⟩, ?_, hnext⟩
  rw [GF.invStep, hF.residue_mul hr hsqr, hproduct, hnext, ← pow_add, hexp]

theorem FieldOk.residue_inv {a : Word} (ha : IsElem F.n a) : F.residue (F.inv a) = F.residue a ^ (2 ^ F.n - 2) := by
  have hstart : F.InvHolds a 0 (1#64, a) := ⟨⟨.one hF.width.1, ha⟩, by simp, by simp⟩
  have hend := foldl_range_induction (f := fun rx _ => F.invStep rx) hstart (fun k rx => hF.invStep) (F.n - 1)
  rw [GF.inv, hend.product, Nat.sub_add_cancel hF.width.1]

/-- `inv` is the power `2^n - 2` (R125). -/
theorem FieldOk.inv_eq_power {a : Word} (ha : IsElem F.n a) : F.inv a = Reference.power F a (2 ^ F.n - 2) :=
  hF.eq_of_residue_eq (hF.inv ha) (hF.power a _) ((hF.residue_inv ha).trans (hF.residue_power ha _).symm)

/-- The inverse of 0 is 0 (R136), where `2^n - 2` is not 0. -/
theorem FieldOk.inv_zero (hn : 2 ≤ F.n) : F.inv 0#64 = 0#64 := by
  have hpow : 2 ^ 2 ≤ 2 ^ F.n := Nat.pow_le_pow_right (by decide) hn
  refine hF.eq_of_residue_eq (hF.inv (.zero _)) (.zero _) ?_
  rw [hF.residue_inv (.zero _), F.residue_zero, zero_pow (by omega)]

end Sys2Proof.Reference

/-!
PROOFS. The scalar commands (40_field_kernel.md section 2): the words they assemble to (R95, R98), the frame of a command that
completes, and what the Field Kernel's commands leave in the registers.
-/

namespace Sys2Proof

open Laws Reference

/-! ## The words of R98 -/

theorem toNat_append_eq_add {m n : Nat} (x : BitVec m) (y : BitVec n) : (x ++ y).toNat = x.toNat * 2 ^ n + y.toNat := by
  rw [BitVec.toNat_append, ← Nat.shiftLeft_add_eq_or_of_lt y.isLt, Nat.shiftLeft_eq]

/-- The word of R98, from its fields as numbers, is the packed word. -/
theorem wordOf_toNat (op : BitVec 8) (d a b c : BitVec 4) (imm : BitVec 32) :
    wordOf op.toNat d.toNat a.toNat b.toNat c.toNat imm.toNat = pack op d a b c imm := by
  apply BitVec.eq_of_toNat_eq
  simp only [pack, wordOf, toNat_append_eq_add, BitVec.toNat_ofNat]
  omega

/-- A command packed from the opcode of a row and the fields that the row builds it from is what those numbers assemble to. -/
theorem assembles_of_row (op : BitVec 8) (d a b c : BitVec 4) (imm : BitVec 32) {i : Instr} {r : Row} (hr : r ∈ rows)
    (hfits : EncodingFits.Statement i) (hi : encode i = pack op d a b c imm) (ho : op = r.opcode)
    (hb : r.build ⟨d, a, b, c, imm⟩ = i) (hwf : i.wellFormed = true) :
    Assembles i op.toNat d.toNat a.toNat b.toNat c.toNat imm.toNat := by
  have hop : opcodeOf (encode i) = r.opcode := by rw [hi, opcodeOf_pack, ho]
  have hbuild : r.build (fieldsOf (encode i)) = i := by rw [hi, fieldsOf_pack, hb]
  rw [Assembles, wordOf_toNat, ← hi, decode_encode_of_row hr hfits hop hbuild, if_pos hwf]

theorem assembles_fadd (d a b : EReg) : Assembles (.fadd d a b) 0x10 d.val a.val b.val 0 0 :=
  assembles_of_row 0x10#8 (ofEReg d) (ofEReg a) (ofEReg b) 0 0 (row_mem 1 (by decide)) (EncodingFits.fadd d a b) rfl rfl rfl rfl

theorem assembles_fsub (d a b : EReg) : Assembles (.fsub d a b) 0x11 d.val a.val b.val 0 0 :=
  assembles_of_row 0x11#8 (ofEReg d) (ofEReg a) (ofEReg b) 0 0 (row_mem 2 (by decide)) (EncodingFits.fsub d a b) rfl rfl rfl rfl

theorem assembles_fneg (d a : EReg) : Assembles (.fneg d a) 0x12 d.val a.val 0 0 0 :=
  assembles_of_row 0x12#8 (ofEReg d) (ofEReg a) 0 0 0 (row_mem 3 (by decide)) (EncodingFits.fneg d a) rfl rfl rfl rfl

theorem assembles_finv (d a : EReg) : Assembles (.finv d a) 0x16 d.val a.val 0 0 0 :=
  assembles_of_row 0x16#8 (ofEReg d) (ofEReg a) 0 0 0 (row_mem 7 (by decide)) (EncodingFits.finv d a) rfl rfl rfl rfl

theorem wordOf_fbfly (d a b : EReg) : wordOf 0x17 d.val a.val b.val 0 0 = encode (.fbfly d a b) :=
  wordOf_toNat 0x17#8 (ofEReg d) (ofEReg a) (ofEReg b) 0 0

theorem wordOf_fibfly (d a b : EReg) : wordOf 0x18 d.val a.val b.val 0 0 = encode (.fibfly d a b) :=
  wordOf_toNat 0x18#8 (ofEReg d) (ofEReg a) (ofEReg b) 0 0

end Sys2Proof

namespace Sys2Proof.Machine

open Reference

/-! ## The frame of a command that completes (R246) -/

/-- A state that differs in registers, buffers, the draws and the workers' order, and has completed, reads the same at every
word of the map but `STATUS` and those of the registers `regs` and the buffers `bufs` (R63). -/
theorem Completes.of_update {regs : List EReg} {bufs : List PReg} {s : State} {e : Vector Word 16} {mem : Memory}
    {entropy : List Word} {draws : Nat} {turns : List Worker} (he : ∀ j ∉ regs, e[j] = s.e[j])
    (hm : ∀ b ∉ bufs, mem[b] = s.mem[b]) :
    Completes regs bufs false s { s with
      e := e, mem := mem, entropy := entropy, draws := draws, turns := turns, inflight := none, done := true } where
  doneSet := rfl
  idle := rfl
  otherRegs := he
  otherBufs := hm
  sameTables _ := ⟨rfl, rfl, rfl, rfl⟩
  control := ⟨rfl, rfl, rfl⟩
  errorRegs := ⟨rfl, rfl, rfl, rfl⟩
  accessFlags := ⟨rfl, rfl⟩
  outside := ⟨rfl, rfl, rfl⟩
  parameters := rfl
  windowElsewhere off hstatus hregs hbufs _ := by
    cases hl : locate off with
    | none => simp only [State.window, hl, Option.bind_none]
    | some l =>
      obtain ⟨rfl, hmap⟩ := offset_of_locate hl
      simp only [State.window, hl, Option.bind_some]
      cases l with
      | status => exact absurd rfl hstatus
      | e i =>
        have hi := he i fun hi => hregs i hi rfl
        simp only [State.readLoc, State.readE, hi]
        rfl
      | len b =>
        have hb := hm b fun hb => hbufs b hb (.inl rfl)
        simp only [State.readLoc, State.len, State.buf, hb]
      | elem b i =>
        have hb := hm b fun hb => hbufs b hb (.inr (by simp only [Loc.inMap] at hmap; simp only [Loc.offset]; omega))
        simp only [State.readLoc, State.len, State.buf, hb]
        rfl
      | id | ctrl | cmd | errinfo | errcmd | param | basis | comb | sub => rfl

theorem Completes.writeE (s : State) (d : EReg) (v : Word) : Completes [d] [] false s (s.writeE d v).complete :=
  .of_update (fun j hj => (s.writeE_get d v j).trans (if_neg (Ne.symm (List.mem_singleton.not.mp hj)))) fun _ _ => rfl

/-- A command that writes one register, the value computed from the state before it. -/
theorem scalarResult {i : Instr} {d : EReg} {value : State → Word} (h : ∀ s, exec i s = finish (s.writeE d (value s))) :
    ScalarResult i d value := fun s =>
  ⟨_, h s, by simp, .writeE s d _, rfl, rfl, rfl⟩

theorem State.readE_eq_reg (s : State) (i : EReg) : s.readE i = reg s i := s.and_mask_eq_narrow _

/-! ## The butterflies (R126, R127, R137, R138) -/

theorem GF.ibfly_bfly (F : GF) (k k2 g : Word) : F.ibfly (F.bfly k k2 g).1 (F.bfly k k2 g).2 g = (k, k2) := by
  simp [GF.ibfly, GF.bfly]

theorem GF.bfly_ibfly (F : GF) (k k2 g : Word) : F.bfly (F.ibfly k k2 g).1 (F.ibfly k k2 g).2 g = (k, k2) := by
  simp [GF.ibfly, GF.bfly]

theorem exec_fbfly {d a : EReg} (h : d ≠ a) (b : EReg) (s : State) : exec (.fbfly d a b) s =
    finish (s.writePair d a (s.field.bfly (s.readE d) (s.readE a) (s.readE b))) := if_neg h

theorem exec_fibfly {d a : EReg} (h : d ≠ a) (b : EReg) (s : State) : exec (.fibfly d a b) s =
    finish (s.writePair d a (s.field.ibfly (s.readE d) (s.readE a) (s.readE b))) := if_neg h

theorem State.writePair_get_snd (s : State) (d a : EReg) (r : Word × Word) : (s.writePair d a r).complete.e[a] = r.2 :=
  (State.writeE_get _ a r.2 a).trans (if_pos rfl)

theorem State.writePair_get_fst {d a : EReg} (h : d ≠ a) (s : State) (r : Word × Word) :
    (s.writePair d a r).complete.e[d] = r.1 :=
  (State.writeE_get _ a r.2 d).trans ((if_neg h.symm).trans ((s.writeE_get d r.1 d).trans (if_pos rfl)))

theorem State.writePair_get_other {d a j : EReg} (hd : j ≠ d) (ha : j ≠ a) (s : State) (r : Word × Word) :
    (s.writePair d a r).complete.e[j] = s.e[j] :=
  (State.writeE_get _ a r.2 j).trans ((if_neg ha.symm).trans ((s.writeE_get d r.1 j).trans (if_neg hd.symm)))

/-- Writing the old contents of both registers back restores the register file. -/
theorem State.writePair_writePair_old {d a : EReg} (h : d ≠ a) (s : State) (r : Word × Word) :
    ((s.writePair d a r).complete.writePair d a (s.e[d], s.e[a])).complete.e = s.e := by
  have hget (j : EReg) : ((s.writePair d a r).complete.writePair d a (s.e[d], s.e[a])).complete.e[j] = s.e[j] := by
    by_cases hja : j = a
    · rw [hja, State.writePair_get_snd]
    by_cases hjd : j = d
    · rw [hjd, State.writePair_get_fst h]
    · rw [State.writePair_get_other hjd hja, State.writePair_get_other hjd hja]
  exact Vector.ext fun j hj => hget ⟨j, hj⟩

theorem Completes.writePair (s : State) (d a : EReg) (r : Word × Word) :
    Completes [d, a] [] false s (s.writePair d a r).complete :=
  .of_update (fun j hj => by
    obtain ⟨hd, ha⟩ : j ≠ d ∧ j ≠ a := by simpa using hj
    exact s.writePair_get_other hd ha r) fun _ _ => rfl

theorem State.readE_of_isElem {s : State} {i : EReg} (h : IsElem s.field.n s.e[i]) : s.readE i = s.e[i] :=
  s.and_mask_of_lt h

/-- After a butterfly on three registers the inverse butterfly computes the old contents of the first two. -/
theorem State.ibfly_after_bfly {s t : State} {d a b : EReg} (hda : d ≠ a) (hbd : b ≠ d) (hba : b ≠ a)
    (ht : t = (s.writePair d a (s.field.bfly (s.readE d) (s.readE a) (s.readE b))).complete) :
    t.field.ibfly (t.readE d) (t.readE a) (t.readE b) = (s.readE d, s.readE a) := by
  have hfield : t.field = s.field := by rw [ht]; rfl
  obtain ⟨hk, hk2⟩ := s.fieldOk.bfly _ _ _ (s.readE_lt d) (s.readE_lt a) (s.readE_lt b)
  have hd : t.readE d = (s.field.bfly (s.readE d) (s.readE a) (s.readE b)).1 := by
    rw [State.readE, hfield, ht, State.writePair_get_fst hda, s.and_mask_of_lt hk]
  have ha : t.readE a = (s.field.bfly (s.readE d) (s.readE a) (s.readE b)).2 := by
    rw [State.readE, hfield, ht, State.writePair_get_snd, s.and_mask_of_lt hk2]
  have hb : t.readE b = s.readE b := by
    rw [State.readE, hfield, ht, State.writePair_get_other hbd hba, State.readE]
  rw [hfield, hd, ha, hb, GF.ibfly_bfly]

end Sys2Proof.Machine

namespace Sys2Proof.Proofs

open Sys2Proof.Machine Sys2Proof.Reference Laws

/-- Settles O29: both multipliers multiply the residues of their operands, and an element is determined by its residue (R123). -/
theorem multipliersAgree : Obligations.MultipliersAgree := fun _ hF _ b ha hb => ⟨hF.mul_eq_mulNaive ha hb, hF.mul ha b⟩

/-- Settles O27: each command writes one register and completes (R130, R131, R132). -/
theorem addSubtractAndMove : Obligations.AddSubtractAndMove := by
  refine ⟨fun d a b => ⟨assembles_fadd d a b, scalarResult fun s => ?_⟩,
    fun d a b => ⟨assembles_fsub d a b, scalarResult fun s => ?_⟩, fun d a => ⟨assembles_fneg d a, scalarResult fun s => ?_⟩⟩
  · rw [← State.readE_eq_reg, ← State.readE_eq_reg]
    rfl
  · rw [← State.readE_eq_reg, ← State.readE_eq_reg]
    rfl
  · rw [← State.readE_eq_reg]
    rfl

/-- Settles O30: the inversion chain is the power, and a positive power of 0 is 0 (R125, R136). -/
theorem inverseIsThePower : Obligations.InverseIsThePower := by
  refine ⟨fun d a => ⟨assembles_finv d a, scalarResult fun s => ?_⟩, fun P W => (P.fieldOk W).inv_zero ?_⟩
  · rw [← State.readE_eq_reg, ← State.field_n, ← s.fieldOk.inv_eq_power (s.readE_lt a)]
    rfl
  · rw [Params.field_n]
    cases W <;> decide

/-- Settles O33: both registers are written from the state before the command (R137, R138); on one register the word is
illegal (R101). -/
theorem butterflyCommands : Obligations.ButterflyCommands := by
  refine ⟨fun d a b hda => ⟨?_, fun s => ⟨_, exec_fbfly hda b s, ?_, ?_, .writePair s d a _, rfl, rfl, rfl⟩⟩,
    fun d a b hda => ⟨?_, fun s => ⟨_, exec_fibfly hda b s, ?_, ?_, .writePair s d a _, rfl, rfl, rfl⟩⟩, fun d b => ⟨?_, ?_⟩⟩
  · rw [Assembles, wordOf_fbfly, decode_encode_fbfly, if_neg hda]
  · simp only [← State.readE_eq_reg]
    rw [State.writePair_get_fst hda]
    exact congrArg (s.readE d ^^^ ·) (s.fieldOk.mul_eq_mulNaive (s.readE_lt b) (s.readE_lt a))
  · rw [State.writePair_get_snd, State.writePair_get_fst hda, ← State.readE_eq_reg]
    rfl
  · rw [Assembles, wordOf_fibfly, decode_encode_fibfly, if_neg hda]
  · simp only [← State.readE_eq_reg]
    rw [State.writePair_get_snd]
    rfl
  · simp only [← State.readE_eq_reg]
    rw [State.writePair_get_fst hda, State.writePair_get_snd]
    exact congrArg (s.readE d ^^^ ·) (s.fieldOk.mul_eq_mulNaive (s.readE_lt b) (IsElem.xor (s.readE_lt a) (s.readE_lt d)))
  · rw [wordOf_fbfly, decode_encode_fbfly, if_pos rfl]
  · rw [wordOf_fibfly, decode_encode_fibfly, if_pos rfl]

/-- Settles O34: the second exclusive or takes away what the first added (R127), and a third register keeps the twiddle. -/
theorem butterfliesUndoEachOther : Obligations.ButterfliesUndoEachOther := by
  refine ⟨fun F k k2 g => ⟨F.ibfly_bfly k k2 g, F.bfly_ibfly k k2 g⟩, fun s d a b hda hbd hba hd ha =>
    ⟨_, _, exec_fbfly hda b s, exec_fibfly hda b _, ?_⟩⟩
  rw [← State.field_n] at hd ha
  rw [State.ibfly_after_bfly hda hbd hba rfl, State.readE_of_isElem hd, State.readE_of_isElem ha,
    State.writePair_writePair_old hda]

end Sys2Proof.Proofs

/-!
PROOFS. The Basis Builder (41_basis.md): the tower, the retained basis, the combinations and the twiddle table entry by entry as
R150 to R154 give them, the frame of a command that replaces the tables, and BASIS itself (R152).
-/

namespace Sys2Proof.Machine

open Reference

/-! ## The tower and the retained basis (R150, R151) -/

theorem towerFrom_towerAt (F : GF) (g0 : Word) (k i : Nat) :
    towerFrom F k (towerAt F g0 i) = (List.range' i k).map (towerAt F g0) := by
  induction k generalizing i with
  | zero => rfl
  | succ k ih =>
    rw [List.range'_succ, List.map_cons, ← ih (i + 1)]
    rfl

theorem tower_eq_map (F : GF) (g0 : Word) : tower F g0 = (List.range' 0 F.n).map (towerAt F g0) :=
  towerFrom_towerAt F g0 F.n 0

/-- The last of the `n` tower elements is `b[n-1]` (R150). -/
theorem getLast?_tower {F : GF} (hn : 1 ≤ F.n) (g0 : Word) : (tower F g0).getLast? = some (towerAt F g0 (F.n - 1)) := by
  rw [tower_eq_map, List.getLast?_map, List.getLast?_range', if_neg (by omega), Option.map_some, Nat.zero_add]

theorem retained_eq_map {F : GF} {m : Nat} (hm : m ≤ F.n) (g0 : Word) :
    retained F g0 m = (List.range' (F.n - m) m).map (towerAt F g0) := by
  rw [retained, tower_eq_map, ← List.map_drop, List.drop_range', Nat.mul_one, Nat.zero_add, Nat.sub_sub_self hm]

theorem length_retained {F : GF} {m : Nat} (hm : m ≤ F.n) (g0 : Word) : (retained F g0 m).length = m := by
  rw [retained_eq_map hm, List.length_map, List.length_range']

/-- `basis[t] = b[n - m + t]` (R151). -/
theorem at'_retained {F : GF} {m t : Nat} (hm : m ≤ F.n) (ht : t < m) (g0 : Word) :
    at' (retained F g0 m) t = towerAt F g0 (F.n - m + t) := by
  simp [at', retained_eq_map hm, ht]

/-! ## The combinations (R153) -/

theorem at'_append_left {p : List Word} {j : Nat} (hj : j < p.length) (q : List Word) : at' (p ++ q) j = at' p j :=
  List.getD_append _ _ _ _ hj

/-- The second half of a table that a function of its entries doubles. -/
theorem at'_append_map (f : Word → Word) {p : List Word} {j : Nat} (hj : j < p.length) :
    at' (p ++ p.map f) (p.length + j) = f (at' p j) := by
  simp [at', hj]

/-- What the outer loop of R153 has built before its turn `k`. -/
structure CombHolds (basis : List Word) (m k : Nat) (comb : List Word) : Prop where
  length : comb.length = 2 ^ k
  zero : at' comb 0 = 0#64
  entry : ∀ i, i < k → ∀ j, j < 2 ^ i → at' comb (2 ^ i + j) = at' comb j ^^^ at' basis (m - 1 - i)

theorem CombHolds.combStep {basis comb : List Word} {m k : Nat} (h : CombHolds basis m k comb) :
    CombHolds basis m (k + 1) (combStep basis m comb k) where
  length := by
    rw [Machine.combStep, List.length_append, List.length_map, h.length, Nat.pow_succ, Nat.mul_two]
  zero := by
    rw [Machine.combStep, at'_append_left (h.length ▸ Nat.two_pow_pos k), h.zero]
  entry i hi j hj := by
    have hik : 2 ^ i ≤ 2 ^ k := Nat.pow_le_pow_right (by decide) (Nat.le_of_lt_succ hi)
    have hjl : j < comb.length := h.length ▸ Nat.lt_of_lt_of_le hj hik
    rw [Machine.combStep, at'_append_left hjl]
    rcases Nat.eq_or_lt_of_le (Nat.le_of_lt_succ hi) with rfl | hlt
    · rw [← h.length, at'_append_map _ hjl]
      rfl
    · have hnext : 2 ^ (i + 1) ≤ 2 ^ k := Nat.pow_le_pow_right (by decide) hlt
      rw [at'_append_left (by rw [h.length]; omega), h.entry i hlt j hj]

theorem combHolds_combinations (basis : List Word) (m : Nat) : CombHolds basis m m (combinations basis m) :=
  foldl_range_induction (P := CombHolds basis m) ⟨rfl, rfl, fun _ hi => absurd hi (Nat.not_lt_zero _)⟩
    (fun _ _ h => h.combStep) m

/-! ## The twiddle table (R154) -/

theorem length_evens (p : List Word) : (evens p).length = (p.length + 1) / 2 := by
  fun_induction evens p with
  | case1 => rfl
  | case2 a => simp
  | case3 a b rest ih =>
    simp only [List.length_cons, ih]
    omega

/-- `sub[k] = comb[2k]` (R154). -/
theorem at'_evens (p : List Word) (k : Nat) : at' (evens p) k = at' p (2 * k) := by
  fun_induction evens p generalizing k with
  | case1 => rfl
  | case2 a => cases k <;> rfl
  | case3 a b rest ih =>
    cases k with
    | zero => rfl
    | succ k => exact ih k

/-! ## The tables of a generator (R150 to R154) -/

theorem tablesAre {F : GF} {m : Nat} (h1 : 1 ≤ m) (hm : m ≤ F.n) (g0 : Word) :
    TablesAre F g0 m (retained F g0 m) (combinations (retained F g0 m) m) (evens (combinations (retained F g0 m) m)) :=
  have hcomb := combHolds_combinations (retained F g0 m) m
  { basisLength := length_retained hm g0
    basisEntry := fun _ ht => at'_retained hm ht g0
    combLength := hcomb.length
    combZero := hcomb.zero
    combEntry := hcomb.entry
    subLength := by
      have hhalf : 2 ^ m = 2 * 2 ^ (m - 1) := by rw [← Nat.pow_succ', Nat.succ_eq_add_one, Nat.sub_add_cancel h1]
      rw [length_evens, hcomb.length]
      omega
    subEntry := fun k _ => at'_evens _ k }

/-! ## BASIS (R152) -/

/-- An error leaves what R262 assigns. -/
theorem raise_eq_afterError (w : Word) (k : ErrKind) (sub : BitVec 8) (val : Nat) (s : State) :
    raise w k sub val s = .next (afterError s w k.code sub val) := rfl

/-- A command that replaces the tables changes no word of the map but `STATUS` and the tables (R63, R152). -/
theorem Completes.setBasis (s : State) (m : Nat) (bs cs ss : List Word) :
    Completes [] [] true s (s.setBasis m bs cs ss).complete where
  doneSet := rfl
  idle := rfl
  otherRegs _ _ := rfl
  otherBufs _ _ := rfl
  sameTables h := absurd h (by decide)
  control := ⟨rfl, rfl, rfl⟩
  errorRegs := ⟨rfl, rfl, rfl, rfl⟩
  accessFlags := ⟨rfl, rfl⟩
  outside := ⟨rfl, rfl, rfl⟩
  parameters := rfl
  windowElsewhere off hstatus _ _ htables := by
    have hno := tableOffset_iff.not.mp (htables rfl)
    cases hl : locate off with
    | none => simp only [State.window, hl, Option.bind_none]
    | some l =>
      simp only [State.window, hl, Option.bind_some]
      cases l with
      | status => exact absurd (offset_of_locate hl).1.symm hstatus
      | basis i => exact absurd (.inl ⟨i, hl⟩) hno
      | comb i => exact absurd (.inr (.inl ⟨i, hl⟩)) hno
      | sub k => exact absurd (.inr (.inr ⟨k, hl⟩)) hno
      | id | ctrl | cmd | errinfo | errcmd | param | e | len | elem => rfl

/-- The check of R152 in the terms of R150: the tower of the generator in `Ea` ends in One. -/
theorem State.getLast?_tower_readE (s : State) (a : EReg) :
    (tower s.field (s.readE a)).getLast? = some 1#64 ↔ towerAt s.field (reg s a) (s.width.bits - 1) = 1#64 := by
  rw [getLast?_tower s.fieldOk.width.1, s.readE_eq_reg, State.field_n, Option.some_inj]

section Basis

variable {s : State} {a : EReg} {m : BitVec 32}

theorem exec_basis_of_span (h : m.toNat < 1 ∨ min s.width.bits 16 < m.toNat) :
    exec (.basis a m) s = raise (encode (.basis a m)) .span 0#8 m.toNat s := by
  rw [← s.field_n] at h
  exact if_pos h

theorem exec_basis_of_construction (h1 : 1 ≤ m.toNat) (hm : m.toNat ≤ min s.width.bits 16)
    (ht : towerAt s.field (reg s a) (s.width.bits - 1) ≠ 1#64) :
    exec (.basis a m) s = raise (encode (.basis a m)) .construction 0#8 0 s := by
  rw [← s.field_n] at hm
  rw [Ne, ← s.getLast?_tower_readE] at ht
  exact (if_neg (not_or.mpr ⟨Nat.not_lt.mpr h1, Nat.not_lt.mpr hm⟩)).trans (if_pos ht)

theorem exec_basis_of_tower (h1 : 1 ≤ m.toNat) (hm : m.toNat ≤ min s.width.bits 16)
    (ht : towerAt s.field (reg s a) (s.width.bits - 1) = 1#64) :
    exec (.basis a m) s = finish (s.setBasis m.toNat (retained s.field (reg s a) m.toNat)
      (combinations (retained s.field (reg s a) m.toNat) m.toNat)
      (evens (combinations (retained s.field (reg s a) m.toNat) m.toNat))) := by
  rw [← s.field_n] at hm
  rw [← s.getLast?_tower_readE] at ht
  rw [← s.readE_eq_reg]
  exact (if_neg (not_or.mpr ⟨Nat.not_lt.mpr h1, Nat.not_lt.mpr hm⟩)).trans (if_neg (not_ne_iff.mpr ht))

end Basis

end Sys2Proof.Machine

namespace Sys2Proof

open Laws Reference

theorem assembles_basis (a : EReg) (m : BitVec 32) : Assembles (.basis a m) 0x20 0 a.val 0 0 m.toNat :=
  assembles_of_row 0x20#8 0 (ofEReg a) 0 0 m (row_mem 11 (by decide)) (EncodingFits.basis a m) rfl rfl rfl rfl

end Sys2Proof

namespace Sys2Proof.Proofs

open Sys2Proof.Machine Sys2Proof.Reference

/-- Settles O36: the two checks in order, then the tables of the generator, entry by entry (R150 to R154). -/
theorem basisCommandBuildsTables : Obligations.BasisCommandBuildsTables := by
  refine fun a m => ⟨assembles_basis a m, fun s hspan => ?_, fun s ⟨h1, hm, ht⟩ => ?_, fun s h1 hm ht => ?_⟩
  · rw [exec_basis_of_span hspan, raise_eq_afterError]
    rfl
  · rw [exec_basis_of_construction h1 hm ht, raise_eq_afterError]
    rfl
  · have hn : m.toNat ≤ s.field.n := s.field_n ▸ hm.trans (Nat.min_le_left _ _)
    exact ⟨_, exec_basis_of_tower h1 hm ht, rfl, tablesAre h1 hn _, .setBasis s .., rfl, rfl, rfl⟩

end Sys2Proof.Proofs

/-!
PROOFS. The Radix Converter (42_radix.md): a block as columns on which each statement of R160 and R161 is an exclusive or, the
blocks of a sweep in place and apart, the two conversions as the loops of R160 and R161, and the commands RADIX and IRADIX.
-/

namespace Sys2Proof.Machine

open Reference

/-! ## Entries of a list (R10, R121) -/

theorem at'_append_right (p q : List Word) (j : Nat) : at' (p ++ q) (p.length + j) = at' q j :=
  (List.getD_append_right p q _ _ (Nat.le_add_right _ j)).trans (by rw [Nat.add_sub_cancel_left, at'])

theorem at'_eq_zero {p : List Word} {j : Nat} (h : p.length ≤ j) : at' p j = 0#64 := List.getD_eq_default _ _ h

theorem ext_at' {p q : List Word} (hl : p.length = q.length) (h : ∀ i, i < p.length → at' p i = at' q i) : p = q :=
  List.ext_getElem hl fun i hp hq => by simpa [at', hp, hq] using h i hp

@[simp] theorem length_addAt (p : List Word) (i : Nat) (v : Word) : (addAt p i v).length = p.length := List.length_set

theorem at'_addAt {p : List Word} {i : Nat} (hi : i < p.length) (v : Word) (j : Nat) :
    at' (addAt p i v) j = if i = j then at' p i ^^^ v else at' p j := by
  simp only [at', addAt, List.getD_eq_getElem?_getD, List.getElem?_set, if_pos hi]
  split <;> rfl

theorem at'_xorList {p q : List Word} (hl : p.length = q.length) (j : Nat) :
    at' (xorList p q) j = at' p j ^^^ at' q j := by
  rcases Nat.lt_or_ge j p.length with hj | hj
  · have hq : j < q.length := hl ▸ hj
    simp [at', xorList, hj, hq]
  · have hx : (xorList p q).length ≤ j := by
      rw [length_xorList]
      omega
    rw [at'_eq_zero hx, at'_eq_zero hj, at'_eq_zero (hl.symm.trans_le hj), BitVec.xor_self]

/-! ## A list as columns -/

/-- Column `t` of a list laid out in rows of `c` entries. -/
def column (c : Nat) (p : List Word) (t : Nat) : Nat → Word := fun j => at' p (j * c + t)

/-- One statement `p[u] += p[v]` on a column. -/
def columnAdd (u v : Nat) (x : Nat → Word) : Nat → Word := Function.update x u (x u ^^^ x v)

/-- Each statement is its own inverse (R164). -/
theorem columnAdd_columnAdd {u v : Nat} (h : v ≠ u) (x : Nat → Word) : columnAdd u v (columnAdd u v x) = x := by
  simp [columnAdd, Function.update_of_ne h]

/-- A list of whole rows is determined by its columns. -/
theorem ext_column {n c : Nat} {p q : List Word} (hp : p.length = n * c) (hq : q.length = n * c)
    (h : ∀ t, t < c → column c p t = column c q t) : p = q := by
  refine ext_at' (hp.trans hq.symm) fun i hi => ?_
  have hc : 0 < c := Nat.pos_of_ne_zero fun hc => by simp [hp, hc] at hi
  have hcol := congrFun (h (i % c) (Nat.mod_lt i hc)) (i / c)
  rwa [column, column, Nat.div_add_mod'] at hcol

section Rows

variable {c t : Nat} {a : List Word} (ha : a.length = c)
include ha

theorem column_append_zero (ht : t < c) (p : List Word) : column c (a ++ p) t 0 = at' a t := by
  rw [column, Nat.zero_mul, Nat.zero_add, at'_append_left (ha ▸ ht)]

theorem column_append_succ (p : List Word) (j : Nat) : column c (a ++ p) t (j + 1) = column c p t j := by
  have hpos : (j + 1) * c + t = a.length + (j * c + t) := by
    rw [ha, Nat.add_mul]
    omega
  rw [column, hpos, at'_append_right, column]

end Rows

theorem column_fourRows {c t : Nat} {a b d e : List Word} (ha : a.length = c) (hb : b.length = c) (hd : d.length = c)
    (he : e.length = c) (ht : t < c) {x : Nat → Word} (h0 : at' a t = x 0) (h1 : at' b t = x 1) (h2 : at' d t = x 2)
    (h3 : at' e t = x 3) (h4 : ∀ j, x (j + 4) = 0#64) : column c (a ++ b ++ d ++ e) t = x := by
  rw [List.append_assoc, List.append_assoc, ← List.append_nil e]
  funext j
  match j with
  | 0 => rw [column_append_zero ha ht, h0]
  | 1 => rw [column_append_succ ha, column_append_zero hb ht, h1]
  | 2 => rw [column_append_succ ha, column_append_succ hb, column_append_zero hd ht, h2]
  | 3 => rw [column_append_succ ha, column_append_succ hb, column_append_succ hd, column_append_zero he ht, h3]
  | j + 4 =>
    rw [column_append_succ ha, column_append_succ hb, column_append_succ hd, column_append_succ he, h4]
    rfl

/-- A list of `n` rows has no entry in a later row. -/
theorem column_eq_zero {n c j : Nat} {p : List Word} (hp : p.length = n * c) (hj : n ≤ j) (t : Nat) : column c p t j = 0#64 :=
  at'_eq_zero (hp.trans_le ((Nat.mul_le_mul_right c hj).trans (Nat.le_add_right _ t)))

theorem at'_quarter {c t : Nat} (ht : t < c) (p : List Word) (j : Nat) : at' (quarter c j p) t = column c p t j := by
  simp [at', quarter, column, ht]

/-- A position determines its row and its column. -/
theorem mul_add_eq_mul_add_iff {c k t : Nat} (hk : k < c) (ht : t < c) (u j : Nat) :
    u * c + k = j * c + t ↔ u = j ∧ t = k := by
  refine ⟨fun h => ?_, fun ⟨hu, ht⟩ => by rw [hu, ht]⟩
  have hmod := congrArg (· % c) h
  simp only [Nat.mul_add_mod_self_right, Nat.mod_eq_of_lt hk, Nat.mod_eq_of_lt ht] at hmod
  subst hmod
  exact ⟨Nat.eq_of_mul_eq_mul_right (Nat.zero_lt_of_lt hk) (Nat.add_right_cancel h), rfl⟩

/-- A statement between two rows changes the one column it is at. -/
theorem column_addAt {n c k t u : Nat} {p : List Word} (hp : p.length = n * c) (hu : u < n) (hk : k < c) (ht : t < c)
    (v : Nat) : column c (addAt p (u * c + k) (at' p (v * c + k))) t =
      if t = k then columnAdd u v (column c p k) else column c p t := by
  have hin : u * c + k < p.length := by
    have hrow : (u + 1) * c ≤ n * c := Nat.mul_le_mul_right c hu
    rw [Nat.add_mul] at hrow
    omega
  funext j
  simp only [column, at'_addAt hin, mul_add_eq_mul_add_iff hk ht]
  by_cases htk : t = k
  · subst htk
    simp only [and_true, if_true, columnAdd, column, Function.update_apply, eq_comm (a := u)]
  · simp only [htk, and_false, if_false, column]

/-! ## The statements of a loop on the columns -/

theorem loop_succ {α : Type} (k : Nat) (body : α → Nat → α) (x : α) : loop (k + 1) body x = body (loop k body x) k := by
  simp [loop, List.range_succ]

/-- Turn `k` of a loop on a list of `n` rows acts on column `k` alone. -/
structure ColumnTurns (n c : Nat) (body : List Word → Nat → List Word) (f : (Nat → Word) → Nat → Word) : Prop where
  length : ∀ p k, p.length = n * c → (body p k).length = n * c
  turn : ∀ p k t, p.length = n * c → k < c → t < c →
    column c (body p k) t = if t = k then f (column c p k) else column c p t

/-- One statement `p[u*c+k] += p[v*c+k]` of each turn. -/
theorem columnTurns_addAt {n u : Nat} (c v : Nat) (hu : u < n) :
    ColumnTurns n c (fun p k => addAt p (u * c + k) (at' p (v * c + k))) (columnAdd u v) where
  length _ _ hp := (length_addAt ..).trans hp
  turn _ _ _ hp hk ht := column_addAt hp hu hk ht v

namespace ColumnTurns

variable {n c : Nat} {body body' : List Word → Nat → List Word} {f f' : (Nat → Word) → Nat → Word}

theorem comp (h' : ColumnTurns n c body' f') (h : ColumnTurns n c body f) :
    ColumnTurns n c (fun p k => body' (body p k) k) (f' ∘ f) where
  length p k hp := h'.length _ k (h.length p k hp)
  turn p k t hp hk ht := by
    rw [h'.turn _ k t (h.length p k hp) hk ht, h.turn p k t hp hk ht, h.turn p k k hp hk hk]
    split <;> simp

theorem length_loop (h : ColumnTurns n c body f) {p : List Word} (hp : p.length = n * c) (k : Nat) :
    (loop k body p).length = n * c :=
  foldl_range_induction (P := fun _ q => q.length = n * c) hp (fun k q => h.length q k) k

/-- The turns touch disjoint columns, so the loop does on each what its own turn does (R164). -/
theorem column_loop (h : ColumnTurns n c body f) {p : List Word} (hp : p.length = n * c) {t : Nat} (ht : t < c) :
    column c (loop c body p) t = f (column c p t) := by
  have hturns (k : Nat) (hk : k ≤ c) : column c (loop k body p) t = if t < k then f (column c p t) else column c p t := by
    induction k with
    | zero => rfl
    | succ k ih =>
      rw [loop_succ, h.turn _ k t (h.length_loop hp k) hk ht]
      rcases Nat.lt_trichotomy t k with hlt | rfl | hgt
      · rw [if_neg hlt.ne, ih (Nat.le_of_lt hk), if_pos hlt, if_pos (Nat.lt_succ_of_lt hlt)]
      · rw [if_pos rfl, ih (Nat.le_of_lt hk), if_neg (Nat.lt_irrefl t), if_pos (Nat.lt_succ_self t)]
      · rw [if_neg hgt.ne', ih (Nat.le_of_lt hk), if_neg (Nat.lt_asymm hgt), if_neg (Nat.not_lt.mpr hgt)]
  rw [hturns c (Nat.le_refl c), if_pos ht]

/-- A function of a block that does the same on each column is the loop. -/
theorem loop_eq (h : ColumnTurns n c body f) {g : List Word → List Word} {p : List Word} (hp : p.length = n * c)
    (hg : (g p).length = n * c) (hcol : ∀ t, t < c → column c (g p) t = f (column c p t)) : loop c body p = g p :=
  ext_column (h.length_loop hp c) hg fun t ht => (h.column_loop hp ht).trans (hcol t ht).symm

end ColumnTurns

theorem columnTurns_radixBody (c : Nat) :
    ColumnTurns 4 c (fun p k => radixBody (2 * c) c 0 p k) (columnAdd 1 2 ∘ columnAdd 2 3) := by
  have hturn := (columnTurns_addAt c 2 (show 1 < 4 by decide)).comp (columnTurns_addAt c 3 (show 2 < 4 by decide))
  have h3 : 3 * c = 2 * c + c := Nat.succ_mul 2 c
  simpa only [radixBody, Nat.zero_add, Nat.one_mul, h3] using hturn

theorem columnTurns_iradixBody (c : Nat) :
    ColumnTurns 4 c (fun p k => iradixBody (2 * c) c 0 p k) (columnAdd 2 3 ∘ columnAdd 1 2) := by
  have hturn := (columnTurns_addAt c 3 (show 2 < 4 by decide)).comp (columnTurns_addAt c 2 (show 1 < 4 by decide))
  have h3 : 3 * c = 2 * c + c := Nat.succ_mul 2 c
  simpa only [iradixBody, Nat.zero_add, Nat.one_mul, h3] using hturn

/-! ## A block of four quarters (R160, R161) -/

section Block

variable {c : Nat} {p : List Word} (hp : p.length = 4 * c)
include hp

theorem length_quarter_of_block {j : Nat} (hj : j < 4) : (quarter c j p).length = c := by
  rw [length_quarter, hp]
  interval_cases j <;> omega

theorem length_radixBlock : (radixBlock c p).length = 4 * c := by
  simp only [radixBlock, List.length_append, length_xorList, length_quarter, hp]
  omega

theorem length_iradixBlock : (iradixBlock c p).length = 4 * c := by
  simp only [iradixBlock, List.length_append, length_xorList, length_quarter, hp]
  omega

theorem column_radixBlock {t : Nat} (ht : t < c) :
    column c (radixBlock c p) t = columnAdd 1 2 (columnAdd 2 3 (column c p t)) := by
  have hl {j : Nat} (hj : j < 4) := length_quarter_of_block hp hj
  refine column_fourRows (hl (by decide)) ?_ ?_ (hl (by decide)) ht ?_ ?_ ?_ ?_ fun j => ?_
  all_goals simp [hl, at'_xorList, at'_quarter ht, columnAdd, column_eq_zero hp]

theorem column_iradixBlock {t : Nat} (ht : t < c) :
    column c (iradixBlock c p) t = columnAdd 2 3 (columnAdd 1 2 (column c p t)) := by
  have hl {j : Nat} (hj : j < 4) := length_quarter_of_block hp hj
  refine column_fourRows (hl (by decide)) ?_ ?_ (hl (by decide)) ht ?_ ?_ ?_ ?_ fun j => ?_
  all_goals simp [hl, at'_xorList, at'_quarter ht, columnAdd, column_eq_zero hp]

/-- The innermost loop of R160, on a block alone. -/
theorem loop_radixBody : loop c (radixBody (2 * c) c 0) p = radixBlock c p :=
  (columnTurns_radixBody c).loop_eq hp (length_radixBlock hp) fun _ ht => column_radixBlock hp ht

/-- The innermost loop of R161, on a block alone. -/
theorem loop_iradixBody : loop c (iradixBody (2 * c) c 0) p = iradixBlock c p :=
  (columnTurns_iradixBody c).loop_eq hp (length_iradixBlock hp) fun _ ht => column_iradixBlock hp ht

theorem iradixBlock_radixBlock : iradixBlock c (radixBlock c p) = p :=
  have hl := length_radixBlock hp
  ext_column (length_iradixBlock hl) hp fun t ht => by
    rw [column_iradixBlock hl ht, column_radixBlock hp ht, columnAdd_columnAdd (by decide), columnAdd_columnAdd (by decide)]

theorem radixBlock_iradixBlock : radixBlock c (iradixBlock c p) = p :=
  have hl := length_iradixBlock hp
  ext_column (length_radixBlock hl) hp fun t ht => by
    rw [column_radixBlock hl ht, column_iradixBlock hp ht, columnAdd_columnAdd (by decide), columnAdd_columnAdd (by decide)]

end Block

/-! ## A block in place -/

/-- On a block of `d` entries anywhere in a list, `g` at the block's start does what `f` does to the block alone. -/
structure InPlace (d : Nat) (g : Nat → List Word → List Word) (f : List Word → List Word) : Prop where
  length : ∀ blk, blk.length = d → (f blk).length = d
  apply : ∀ pre blk suf, blk.length = d → g pre.length (pre ++ blk ++ suf) = pre ++ f blk ++ suf

namespace InPlace

variable {d : Nat}

theorem addAt {u v : Nat} (hu : u < d) (hv : v < d) :
    InPlace d (fun o p => addAt p (o + u) (at' p (o + v))) (fun p => addAt p u (at' p v)) where
  length _ hblk := (length_addAt ..).trans hblk
  apply pre blk suf hblk := by
    subst hblk
    have hat {i : Nat} (hi : i < blk.length) : at' (pre ++ (blk ++ suf)) (pre.length + i) = at' blk i := by
      rw [at'_append_right, at'_append_left hi]
    have hset := List.set_append_right (s := pre) (t := blk ++ suf) (pre.length + u) (at' blk u ^^^ at' blk v)
      (Nat.le_add_right _ _)
    rw [Nat.add_sub_cancel_left, List.set_append_left u _ hu] at hset
    simp only [List.append_assoc, Reference.addAt, hat hu, hat hv, hset]

theorem comp {g g' : Nat → List Word → List Word} {f f' : List Word → List Word} (h' : InPlace d g' f')
    (h : InPlace d g f) :
    InPlace d (fun o p => g' o (g o p)) (fun p => f' (f p)) where
  length blk hblk := h'.length _ (h.length blk hblk)
  apply pre blk suf hblk := by rw [h.apply pre blk suf hblk, h'.apply pre _ suf (h.length blk hblk)]

theorem loop {body : Nat → List Word → Nat → List Word} {body' : List Word → Nat → List Word} {n : Nat}
    (h : ∀ k, k < n → InPlace d (fun o p => body o p k) (body' · k)) :
    InPlace d (fun o => loop n (body o)) (loop n body') := by
  induction n with
  | zero => exact ⟨fun _ hblk => hblk, fun _ _ _ _ => rfl⟩
  | succ n ih =>
    simp only [funext (loop_succ n _)]
    exact (h n n.lt_succ_self).comp (ih fun k hk => h k (Nat.lt_succ_of_lt hk))

variable {g : Nat → List Word → List Word} {f : List Word → List Word} (h : InPlace d g f)
include h

theorem congr {f' : List Word → List Word} (hf : ∀ blk, blk.length = d → f blk = f' blk) : InPlace d g f' where
  length blk hblk := hf blk hblk ▸ h.length blk hblk
  apply pre blk suf hblk := hf blk hblk ▸ h.apply pre blk suf hblk

/-- From block `b` on, the blocks before it apart. -/
theorem foldl_range' (n b : Nat) {pre p : List Word} (hpre : pre.length = b * d) (hp : n * d ≤ p.length) :
    (List.range' b n).foldl (fun p b => g (b * d) p) (pre ++ p) = pre ++ mapBlocks f d n p := by
  induction n generalizing b pre p with
  | zero => rfl
  | succ n ih =>
    rw [Nat.add_mul, Nat.one_mul] at hp
    have hblk : (p.take d).length = d := List.length_take_of_le (by omega)
    have hfirst : g (b * d) (pre ++ p) = (pre ++ f (p.take d)) ++ p.drop d := by
      rw [← hpre, ← h.apply pre _ _ hblk, List.append_assoc, List.take_append_drop]
    have hpre' : (pre ++ f (p.take d)).length = (b + 1) * d := by
      rw [List.length_append, hpre, h.length _ hblk, Nat.add_mul, Nat.one_mul]
    rw [List.range'_succ, List.foldl_cons, hfirst, ih (b + 1) hpre' (by rw [List.length_drop]; omega), List.append_assoc,
      mapBlocks]

/-- The loop over the blocks of a list treats each block apart (R164). -/
theorem loop_blocks {n : Nat} {p : List Word} (hp : n * d ≤ p.length) :
    Reference.loop n (fun p b => g (b * d) p) p = mapBlocks f d n p := by
  rw [Reference.loop, List.range_eq_range']
  exact h.foldl_range' n 0 (pre := []) (by simp) hp

end InPlace

theorem length_mapBlocks {f : List Word → List Word} {d n : Nat} (hf : ∀ blk, blk.length = d → (f blk).length = d)
    {p : List Word} (hp : n * d ≤ p.length) : (mapBlocks f d n p).length = p.length := by
  induction n generalizing p with
  | zero => rfl
  | succ n ih =>
    rw [Nat.add_mul, Nat.one_mul] at hp
    rw [mapBlocks, List.length_append, hf _ (List.length_take_of_le (by omega)), ih (by rw [List.length_drop]; omega),
      List.length_drop]
    omega

/-- Where `f'` undoes `f` on a block, it does so block by block. -/
theorem mapBlocks_mapBlocks {f f' : List Word → List Word} {d n : Nat}
    (hf : ∀ blk, blk.length = d → (f blk).length = d ∧ f' (f blk) = blk) {p : List Word} (hp : n * d ≤ p.length) :
    mapBlocks f' d n (mapBlocks f d n p) = p := by
  induction n generalizing p with
  | zero => rfl
  | succ n ih =>
    rw [Nat.add_mul, Nat.one_mul] at hp
    obtain ⟨hl, hundo⟩ := hf (p.take d) (List.length_take_of_le (by omega))
    rw [mapBlocks, mapBlocks, List.take_left' hl, List.drop_left' hl, hundo, ih (by rw [List.length_drop]; omega),
      List.take_append_drop]

/-! ## The innermost loops in place -/

theorem inPlace_radixBlock (c : Nat) : InPlace (4 * c) (fun o => loop c (radixBody (2 * c) c o)) (radixBlock c) := by
  refine (InPlace.loop fun k hk => ?_).congr fun blk hblk => loop_radixBody hblk
  have hturn := (InPlace.addAt (d := 4 * c) (u := c + k) (v := 2 * c + k) (by omega) (by omega)).comp
    (InPlace.addAt (u := 2 * c + k) (v := 2 * c + c + k) (by omega) (by omega))
  simpa only [radixBody, Nat.add_assoc, Nat.zero_add] using hturn

theorem inPlace_iradixBlock (c : Nat) : InPlace (4 * c) (fun o => loop c (iradixBody (2 * c) c o)) (iradixBlock c) := by
  refine (InPlace.loop fun k hk => ?_).congr fun blk hblk => loop_iradixBody hblk
  have hturn := (InPlace.addAt (d := 4 * c) (u := 2 * c + k) (v := 2 * c + c + k) (by omega) (by omega)).comp
    (InPlace.addAt (u := c + k) (v := 2 * c + k) (by omega) (by omega))
  simpa only [iradixBody, Nat.add_assoc, Nat.zero_add] using hturn

/-! ## One sweep (R160, R161) -/

theorem mem_radixSweeps {m i : Nat} (h : i ∈ radixSweeps m) : i + 2 ≤ m := by
  obtain ⟨r, hr, hi⟩ := List.mem_flatMap.mp h
  rw [List.mem_range] at hr hi
  omega

section Sweep

variable {m i : Nat} (hi : i + 2 ≤ m)
include hi

theorem blockSize_eq : 2 ^ (m - i) = 4 * 2 ^ (m - i - 2) := by
  obtain ⟨k, rfl⟩ := Nat.exists_eq_add_of_le hi
  have h1 : i + 2 + k - i = k + 2 := by omega
  rw [h1, Nat.add_sub_cancel, Nat.pow_add, Nat.mul_comm]

theorem blocks_mul_blockSize : 2 ^ i * 2 ^ (m - i) = 2 ^ m := by
  rw [← Nat.pow_add, Nat.add_sub_cancel' (by omega)]

variable {p : List Word} (hp : p.length = 2 ^ m)
include hp

theorem length_sweep {f : Nat → List Word → List Word} (hf : ∀ c blk, blk.length = 4 * c → (f c blk).length = 4 * c) :
    (sweep f m p i).length = 2 ^ m := by
  rw [sweep, length_mapBlocks, hp]
  · rw [blockSize_eq hi]
    exact hf _
  · rw [hp, blocks_mul_blockSize hi]

/-- The two inner loops of a sweep treat each block apart (R164). -/
theorem radixInner_eq_sweep {f : Nat → List Word → List Word} {body : Nat → Nat → Nat → List Word → Nat → List Word}
    (h : ∀ c, InPlace (4 * c) (fun o => loop c (body (2 * c) c o)) (f c)) : radixInner body m p i = sweep f m p i := by
  have hd := blockSize_eq hi
  have hhalf : 2 ^ (m - i) / 2 = 2 * 2 ^ (m - i - 2) := by omega
  have hquarter : 2 ^ (m - i) / 4 = 2 ^ (m - i - 2) := by omega
  have hblock := h (2 ^ (m - i - 2))
  rw [← hd] at hblock
  simp only [radixInner, hhalf, hquarter]
  exact hblock.loop_blocks (by rw [blocks_mul_blockSize hi, hp])

/-- Where `f'` undoes `f` on a block, one sweep undoes the other. -/
theorem sweep_sweep {f f' : Nat → List Word → List Word}
    (hf : ∀ c blk, blk.length = 4 * c → (f c blk).length = 4 * c ∧ f' c (f c blk) = blk) :
    sweep f' m (sweep f m p i) i = p := by
  rw [sweep, sweep, mapBlocks_mapBlocks]
  · rw [blockSize_eq hi]
    exact hf _
  · rw [hp, blocks_mul_blockSize hi]

end Sweep

/-! ## All sweeps (R160, R161, R164) -/

section Sweeps

variable {m : Nat} {l : List Nat} (hl : ∀ i ∈ l, i + 2 ≤ m) {p : List Word} (hp : p.length = 2 ^ m)
include hl hp

theorem foldl_radixInner_eq_foldl_sweep {f : Nat → List Word → List Word}
    {body : Nat → Nat → Nat → List Word → Nat → List Word}
    (h : ∀ c, InPlace (4 * c) (fun o => loop c (body (2 * c) c o)) (f c)) :
    l.foldl (radixInner body m) p = l.foldl (sweep f m) p := by
  induction l generalizing p with
  | nil => rfl
  | cons i l ih =>
    obtain ⟨hi, hl⟩ := List.forall_mem_cons.mp hl
    rw [List.foldl_cons, List.foldl_cons, radixInner_eq_sweep hi hp h, ih hl (length_sweep hi hp fun c => (h c).length)]

/-- The sweeps in reverse order, each undoing its own (R164). -/
theorem foldl_sweep_reverse {f f' : Nat → List Word → List Word}
    (hf : ∀ c blk, blk.length = 4 * c → (f c blk).length = 4 * c ∧ f' c (f c blk) = blk) :
    l.reverse.foldl (sweep f' m) (l.foldl (sweep f m) p) = p := by
  induction l generalizing p with
  | nil => rfl
  | cons i l ih =>
    obtain ⟨hi, hl⟩ := List.forall_mem_cons.mp hl
    have hlen := length_sweep hi hp fun c blk hblk => (hf c blk hblk).1
    rw [List.reverse_cons, List.foldl_append, List.foldl_cons (f := sweep f m), ih hl hlen]
    exact sweep_sweep hi hp hf

end Sweeps

theorem radixLoops_eq_foldl (m : Nat) (p : List Word) : radixLoops m p = (radixSweeps m).foldl (radixInner radixBody m) p := by
  simp only [radixLoops, radixSweeps, List.foldl_flatMap, loop]

theorem iradixLoops_eq_foldl (m : Nat) (p : List Word) :
    iradixLoops m p = (radixSweeps m).reverse.foldl (radixInner iradixBody m) p := by
  simp only [iradixLoops, radixSweeps, List.reverse_flatMap, List.foldl_flatMap, loopDown, Function.comp_def]

section Conversions

variable {m : Nat} {p : List Word} (hp : p.length = 2 ^ m)
include hp

/-- The conversion block by block is the loops of R160. -/
theorem radixLoops_eq_radix : radixLoops m p = radix m p :=
  (radixLoops_eq_foldl m p).trans (foldl_radixInner_eq_foldl_sweep (fun _ => mem_radixSweeps) hp inPlace_radixBlock)

/-- The same for the loops of R161. -/
theorem iradixLoops_eq_iradix : iradixLoops m p = iradix m p :=
  (iradixLoops_eq_foldl m p).trans
    (foldl_radixInner_eq_foldl_sweep (fun _ hi => mem_radixSweeps (List.mem_reverse.mp hi)) hp inPlace_iradixBlock)

theorem iradix_radix : iradix m (radix m p) = p :=
  foldl_sweep_reverse (fun _ => mem_radixSweeps) hp fun _ _ hblk => ⟨length_radixBlock hblk, iradixBlock_radixBlock hblk⟩

theorem radix_iradix : radix m (iradix m p) = p := by
  have h := foldl_sweep_reverse (fun _ hi => mem_radixSweeps (List.mem_reverse.mp hi)) hp
    fun _ _ hblk => ⟨length_iradixBlock hblk, radixBlock_iradixBlock hblk⟩
  rwa [List.reverse_reverse] at h

end Conversions

/-! ## RADIX and IRADIX (R162, R163) -/

/-- A command that writes one buffer changes no word of the map but `STATUS` and the buffer's. -/
theorem Completes.setBuf (s : State) (d : PReg) (p : List Word) : Completes [] [d] false s (s.setBuf d p).complete :=
  .of_update (fun _ _ => rfl) fun b hb => (s.setBuf_buf d p b).trans (if_neg (Ne.symm (List.mem_singleton.not.mp hb)))

theorem isPow2_iff {L : Nat} : isPow2 L = true ↔ ∃ m, L = 2 ^ m := by
  rw [isPow2, decide_eq_true_eq]
  refine ⟨fun h => ⟨_, h.symm⟩, ?_⟩
  rintro ⟨m, rfl⟩
  rw [Nat.log2_two_pow]

section Convert

variable {i : Instr} {d : PReg} {f : Nat → List Word → List Word} (h : ∀ s, exec i s = convert (encode i) f d s)
include h

theorem fails_convert : Fails i (fun s => ∀ m, s.len d ≠ 2 ^ m) 0x02 1 (fun s => s.len d) := fun s hs => by
  have hno : ¬ isPow2 (s.len d) = true := fun hpow => (isPow2_iff.mp hpow).elim hs
  rw [h, convert, if_neg hno, raise_eq_afterError]
  rfl

theorem bufferResult_convert {value : Nat → List Word → List Word} (hf : ∀ m p, p.length = 2 ^ m → value m p = f m p)
    (m : Nat) : BufferResult i d (fun s => s.len d = 2 ^ m) fun s => value m (s.buf d) := fun s hs => by
  have hexec : exec i s = finish (s.setBuf d (f m (s.buf d))) := by
    rw [h, convert, if_pos (isPow2_iff.mpr ⟨m, hs⟩), hs, Nat.log2_two_pow]
  exact ⟨_, hexec, (s.setBuf_buf_self d _).trans (hf m _ hs).symm, .setBuf s d _, rfl, rfl, rfl⟩

end Convert

end Sys2Proof.Machine

namespace Sys2Proof

open Laws Reference

theorem assembles_radix (d : PReg) : Assembles (.radix d) 0x30 d.val 0 0 0 0 :=
  assembles_of_row 0x30#8 (ofPReg d) 0 0 0 0 (row_mem 12 (by decide)) (EncodingFits.radix d) rfl rfl
    (congrArg Instr.radix (toPReg_ofPReg d)) rfl

theorem assembles_iradix (d : PReg) : Assembles (.iradix d) 0x31 d.val 0 0 0 0 :=
  assembles_of_row 0x31#8 (ofPReg d) 0 0 0 0 (row_mem 13 (by decide)) (EncodingFits.iradix d) rfl rfl
    (congrArg Instr.iradix (toPReg_ofPReg d)) rfl

end Sys2Proof

namespace Sys2Proof.Proofs

open Sys2Proof.Machine Sys2Proof.Reference

/-- Settles O39: each sweep's statements are undone in reverse order (R164). -/
theorem radixConversionsInvert : Obligations.RadixConversionsInvert := fun _ _ hp => ⟨iradix_radix hp, radix_iradix hp⟩

/-- Settles O38: the length check, then the conversion, which is the loops of R160 and R161 (R162, R163). -/
theorem radixCommands : Obligations.RadixCommands :=
  ⟨fun d => ⟨assembles_radix d, fails_convert fun _ => rfl,
      bufferResult_convert (fun _ => rfl) fun _ _ => radixLoops_eq_radix⟩,
    fun d => ⟨assembles_iradix d, fails_convert fun _ => rfl,
      bufferResult_convert (fun _ => rfl) fun _ _ => iradixLoops_eq_iradix⟩⟩

end Sys2Proof.Proofs

/-!
PROOFS. The Additive FFT Engine (43_fft.md): a block of a merge level as two rows on whose columns the butterfly acts, the levels
as the loops of R171 and R180, how the levels undo each other (R179), the two workers (R183), and the six transform commands.
-/

namespace Sys2Proof.Machine

open Reference

/-! ## Loops that keep a property -/

section Folds

variable {α β : Type} {P : α → Prop} {f g : α → β → α} {l : List β} {a : α} (ha : P a)
include ha

theorem foldl_congr_of_keeps (h : ∀ i ∈ l, ∀ a, P a → P (f a i) ∧ f a i = g a i) : l.foldl f a = l.foldl g a := by
  induction l generalizing a with
  | nil => rfl
  | cons i l ih =>
    obtain ⟨hi, hl⟩ := List.forall_mem_cons.mp h
    obtain ⟨hkeep, heq⟩ := hi a ha
    rw [List.foldl_cons, List.foldl_cons, ← heq, ih hkeep hl]

/-- Turns undone in reverse order. -/
theorem foldl_reverse_foldl (h : ∀ i ∈ l, ∀ a, P a → P (f a i) ∧ g (f a i) i = a) :
    l.reverse.foldl g (l.foldl f a) = a := by
  induction l generalizing a with
  | nil => rfl
  | cons i l ih =>
    obtain ⟨hi, hl⟩ := List.forall_mem_cons.mp h
    obtain ⟨hkeep, hundo⟩ := hi a ha
    rw [List.foldl_cons, List.reverse_cons, List.foldl_append, ih hkeep hl]
    exact hundo

end Folds

theorem length_foldl_sweep {m : Nat} {f : Nat → List Word → List Word}
    (hf : ∀ c blk, blk.length = 4 * c → (f c blk).length = 4 * c) {l : List Nat} (hl : ∀ i ∈ l, i + 2 ≤ m) {p : List Word}
    (hp : p.length = 2 ^ m) : (l.foldl (sweep f m) p).length = 2 ^ m :=
  List.foldlRecOn (motive := fun q : List Word => q.length = 2 ^ m) _ _ hp fun _ hq i hi => length_sweep (hl i hi) hq hf

theorem length_radix {m : Nat} {p : List Word} (hp : p.length = 2 ^ m) : (radix m p).length = 2 ^ m :=
  length_foldl_sweep (fun _ _ => length_radixBlock) (fun _ => mem_radixSweeps) hp

/-! ## A block of two rows -/

/-- A butterfly with twiddle `g` on the first two entries of a column. -/
def columnPair (f : Word → Word → Word → Word × Word) (g : Word) (x : Nat → Word) : Nat → Word :=
  Function.update (Function.update x 0 (f (x 0) (x 1) g).1) 1 (f (x 0) (x 1) g).2

@[simp] theorem columnPair_zero (f : Word → Word → Word → Word × Word) (g : Word) (x : Nat → Word) :
    columnPair f g x 0 = (f (x 0) (x 1) g).1 := rfl

@[simp] theorem columnPair_one (f : Word → Word → Word → Word × Word) (g : Word) (x : Nat → Word) :
    columnPair f g x 1 = (f (x 0) (x 1) g).2 := rfl

/-- `f'` takes back what the butterfly `f` does, whatever the twiddle (R127). -/
def Undoes (f' f : Word → Word → Word → Word × Word) : Prop := ∀ k k2 g, f' (f k k2 g).1 (f k k2 g).2 g = (k, k2)

theorem Undoes.columnPair_columnPair {f f' : Word → Word → Word → Word × Word} (h : Undoes f' f) (g : Word) (x : Nat → Word) :
    columnPair f' g (columnPair f g x) = x := by
  funext j
  match j with
  | 0 | 1 => simp [h (x 0) (x 1) g]
  | j + 2 => rfl

theorem column_twoRows {c t : Nat} {a b : List Word} (ha : a.length = c) (hb : b.length = c) (ht : t < c) {x : Nat → Word}
    (h0 : at' a t = x 0) (h1 : at' b t = x 1) (h2 : ∀ j, x (j + 2) = 0#64) : column c (a ++ b) t = x := by
  rw [← List.append_nil b]
  funext j
  match j with
  | 0 => rw [column_append_zero ha ht, h0]
  | 1 => rw [column_append_succ ha, column_append_zero hb ht, h1]
  | j + 2 =>
    rw [column_append_succ ha, column_append_succ hb, h2]
    rfl

theorem at'_take {t d : Nat} (ht : t < d) (p : List Word) : at' (p.take d) t = at' p t := by
  simp [at', ht]

theorem at'_drop (p : List Word) (d t : Nat) : at' (p.drop d) t = at' p (d + t) := by
  simp [at']

theorem at'_take_eq_column {t c : Nat} (ht : t < c) (p : List Word) : at' (p.take c) t = column c p t 0 := by
  rw [at'_take ht, column, Nat.zero_mul, Nat.zero_add]

theorem at'_drop_eq_column (p : List Word) (c t : Nat) : at' (p.drop c) t = column c p t 1 := by
  rw [at'_drop, column, Nat.one_mul]

theorem mul_add_lt_mul {n c q t : Nat} (hq : q < n) (ht : t < c) : q * c + t < n * c := by
  have hrow : (q + 1) * c ≤ n * c := Nat.mul_le_mul_right c hq
  rw [Nat.add_mul] at hrow
  omega

theorem at'_map_zipWith (h : Word → Word → Word × Word) (part : Word × Word → Word) {a b : List Word} {t : Nat}
    (ha : t < a.length) (hb : t < b.length) : at' ((List.zipWith h a b).map part) t = part (h (at' a t) (at' b t)) := by
  simp [at', ha, hb]

theorem at'_set {p : List Word} {i : Nat} (hi : i < p.length) (v : Word) (j : Nat) :
    at' (p.set i v) j = if i = j then v else at' p j := by
  simp only [at', List.getD_eq_getElem?_getD, List.getElem?_set, if_pos hi]
  split <;> rfl

/-- A write to a row changes the one column it is at. -/
theorem column_set {n c k t u : Nat} {p : List Word} (hp : p.length = n * c) (hu : u < n) (hk : k < c) (ht : t < c) (v : Word) :
    column c (p.set (u * c + k) v) t = if t = k then Function.update (column c p k) u v else column c p t := by
  have hin : u * c + k < p.length := hp ▸ mul_add_lt_mul hu hk
  funext j
  simp only [column, at'_set hin, mul_add_eq_mul_add_iff hk ht]
  by_cases htk : t = k
  · subst htk
    simp only [and_true, if_true, column, Function.update_apply, eq_comm (a := u)]
  · simp only [htk, and_false, if_false, column]

@[simp] theorem length_pairBody (f : Word → Word → Word → Word × Word) (g : Word) (d : Nat) (p : List Word) (k : Nat) :
    (pairBody f g d p k).length = p.length := by
  rw [pairBody, List.length_set, List.length_set]

theorem columnTurns_pairBody (f : Word → Word → Word → Word × Word) (g : Word) (d : Nat) :
    ColumnTurns 2 d (pairBody f g d) (columnPair f g) where
  length _ _ hp := (length_pairBody ..).trans hp
  turn p k t hp hk ht := by
    have h0 : at' p k = column d p k 0 := by rw [column, Nat.zero_mul, Nat.zero_add]
    have h1 : at' p (k + d) = column d p k 1 := by rw [column, Nat.one_mul, Nat.add_comm]
    have hset {v w : Word} : (p.set k v).set (k + d) w = (p.set (0 * d + k) v).set (1 * d + k) w := by
      rw [Nat.zero_mul, Nat.zero_add, Nat.one_mul, Nat.add_comm]
    have hp' {v : Word} : (p.set (0 * d + k) v).length = 2 * d := by rw [List.length_set, hp]
    rw [pairBody, h0, h1, hset, column_set hp' (by decide) hk ht, column_set hp (by decide) hk hk,
      column_set hp (by decide) hk ht, if_pos rfl]
    split <;> rfl

section Block

variable {d : Nat} {p : List Word} (hp : p.length = 2 * d) (f : Word → Word → Word → Word × Word) (g : Word)
include hp

theorem length_mergeBlock : (mergeBlock f d g p).length = 2 * d := by
  simp only [mergeBlock, List.length_append, List.length_map, List.length_zipWith, List.length_take, List.length_drop, hp]
  omega

theorem column_mergeBlock {t : Nat} (ht : t < d) : column d (mergeBlock f d g p) t = columnPair f g (column d p t) := by
  have hlow : (p.take d).length = d := List.length_take_of_le (by omega)
  have hhigh : (p.drop d).length = d := by rw [List.length_drop]; omega
  refine column_twoRows ?_ ?_ ht ?_ ?_ fun j => column_eq_zero hp (Nat.le_add_left 2 j) t
  · rw [List.length_map, List.length_zipWith, hlow, hhigh, Nat.min_self]
  · rw [List.length_map, List.length_zipWith, hlow, hhigh, Nat.min_self]
  · rw [at'_map_zipWith _ _ (hlow.symm ▸ ht) (hhigh.symm ▸ ht), at'_take_eq_column ht, at'_drop_eq_column,
      columnPair_zero]
  · rw [at'_map_zipWith _ _ (hlow.symm ▸ ht) (hhigh.symm ▸ ht), at'_take_eq_column ht, at'_drop_eq_column,
      columnPair_one]

/-- The innermost loop of R171 and R180, on a block alone. -/
theorem loop_pairBody : loop d (pairBody f g d) p = mergeBlock f d g p :=
  (columnTurns_pairBody f g d).loop_eq hp (length_mergeBlock hp f g) fun _ ht => column_mergeBlock hp f g ht

theorem Undoes.mergeBlock_mergeBlock {f f' : Word → Word → Word → Word × Word} (h : Undoes f' f) (g : Word) :
    mergeBlock f' d g (mergeBlock f d g p) = p :=
  have hl := length_mergeBlock hp f g
  ext_column (length_mergeBlock hl f' g) hp fun t ht => by
    rw [column_mergeBlock hl f' g ht, column_mergeBlock hp f g ht, h.columnPair_columnPair]

end Block

/-! ## The leaf pass (R171) -/

section Leaf

variable {m : Nat} (hm : 1 ≤ m) {p : List Word} (hp : p.length = 2 ^ m)

include hm in
theorem two_mul_two_pow_pred : 2 ^ m = 2 * 2 ^ (m - 1) := by
  rw [← Nat.pow_succ', Nat.succ_eq_add_one, Nat.sub_add_cancel hm]

include hp in
theorem length_leafPass : (leafPass m p).length = 2 ^ m := by
  have hle : 2 ^ (m - 1) ≤ 2 ^ m := Nat.pow_le_pow_right (by decide) (Nat.sub_le m 1)
  have hge : 2 ^ m ≤ 2 * 2 ^ (m - 1) := by
    rw [← Nat.pow_succ']
    exact Nat.pow_le_pow_right (by decide) (by omega)
  simp only [leafPass, List.length_append, length_xorList, List.length_take, List.length_drop, hp]
  omega

include hm hp

theorem column_leafPass {t : Nat} (ht : t < 2 ^ (m - 1)) :
    column (2 ^ (m - 1)) (leafPass m p) t = columnAdd 1 0 (column (2 ^ (m - 1)) p t) := by
  have hp' : p.length = 2 * 2 ^ (m - 1) := hp.trans (two_mul_two_pow_pred hm)
  have hlow : (p.take (2 ^ (m - 1))).length = 2 ^ (m - 1) := List.length_take_of_le (by omega)
  have hhigh : (p.drop (2 ^ (m - 1))).length = 2 ^ (m - 1) := by rw [List.length_drop]; omega
  refine column_twoRows hlow (by rw [length_xorList]; omega) ht (at'_take_eq_column ht p) ?_ fun j =>
    column_eq_zero hp' (Nat.le_add_left 2 j) t
  rw [at'_xorList (hhigh.trans hlow.symm), at'_take_eq_column ht, at'_drop_eq_column]
  rfl

/-- The leaf pass is its own inverse (R180). -/
theorem leafPass_leafPass : leafPass m (leafPass m p) = p := by
  have hl := length_leafPass hp
  have htwo := two_mul_two_pow_pred hm
  refine ext_column ((length_leafPass hl).trans htwo) (hp.trans htwo) fun t ht => ?_
  rw [column_leafPass hm hl ht, column_leafPass hm hp ht, columnAdd_columnAdd (by decide)]

/-- The leaf pass is the loop of R171. -/
theorem leafLoop_eq_leafPass : leafLoop m p = leafPass m p := by
  have htwo := two_mul_two_pow_pred hm
  have hturns := columnTurns_addAt (n := 2) (u := 1) (2 ^ (m - 1)) 0 (by decide)
  simp only [Nat.one_mul, Nat.zero_mul, Nat.zero_add, Nat.add_comm (2 ^ (m - 1))] at hturns
  exact hturns.loop_eq (hp.trans htwo) ((length_leafPass hp).trans htwo) fun t ht => column_leafPass hm hp ht

end Leaf

/-! ## A merge level block by block (R170) -/

section Blocks

variable {f f' : Word → Word → Word → Word × Word} {d : Nat} {gs p : List Word} (hp : gs.length * (2 * d) ≤ p.length)
include hp

theorem length_mergeBlocks : (mergeBlocks f d gs p).length = p.length := by
  induction gs generalizing p with
  | nil => rfl
  | cons g gs ih =>
    rw [List.length_cons, Nat.add_mul, Nat.one_mul] at hp
    rw [mergeBlocks, List.length_append, length_mergeBlock (List.length_take_of_le (by omega)),
      ih (by rw [List.length_drop]; omega), List.length_drop]
    omega

/-- Blocks have disjoint index ranges, so each is undone apart (R184). -/
theorem Undoes.mergeBlocks_mergeBlocks (h : Undoes f' f) : mergeBlocks f' d gs (mergeBlocks f d gs p) = p := by
  induction gs generalizing p with
  | nil => rfl
  | cons g gs ih =>
    rw [List.length_cons, Nat.add_mul, Nat.one_mul] at hp
    have hblk : (p.take (2 * d)).length = 2 * d := List.length_take_of_le (by omega)
    have hl := length_mergeBlock hblk f g
    rw [mergeBlocks, mergeBlocks, List.take_left' hl, List.drop_left' hl, h.mergeBlock_mergeBlock hblk,
      ih (by rw [List.length_drop]; omega), List.take_append_drop]

end Blocks

/-- One butterfly of a block, anywhere in a list. -/
theorem InPlace.pairBody (f : Word → Word → Word → Word × Word) (g : Word) {d k : Nat} (hk : k < d) :
    InPlace (2 * d) (fun o p => pairBody f g d p (o + k)) (fun p => pairBody f g d p k) where
  length _ hblk := (length_pairBody ..).trans hblk
  apply pre blk suf hblk := by
    have hat {i : Nat} (hi : i < 2 * d) : at' (pre ++ (blk ++ suf)) (pre.length + i) = at' blk i := by
      rw [at'_append_right, at'_append_left (hblk.symm ▸ hi)]
    have hset {blk : List Word} (hblk : blk.length = 2 * d) {i : Nat} (hi : i < 2 * d) (v : Word) :
        (pre ++ (blk ++ suf)).set (pre.length + i) v = pre ++ (blk.set i v ++ suf) := by
      rw [List.set_append_right _ _ (Nat.le_add_right _ _), Nat.add_sub_cancel_left, List.set_append_left _ _ (hblk.symm ▸ hi)]
    simp only [List.append_assoc, Reference.pairBody, Nat.add_assoc, hat (show k < 2 * d by omega),
      hat (show k + d < 2 * d by omega), hset hblk (show k < 2 * d by omega)]
    rw [hset ((List.length_set ..).trans hblk) (by omega)]

theorem inPlace_mergeBlock (f : Word → Word → Word → Word × Word) (d : Nat) (g : Word) :
    InPlace (2 * d) (fun o => loop d fun p k => pairBody f g d p (o + k)) (mergeBlock f d g) :=
  (InPlace.loop fun _ => .pairBody f g).congr fun _ hblk => loop_pairBody hblk f g

/-- The loop over the blocks from block `b` on, where `gs` is the rest of the twiddle table. -/
theorem foldl_blocks_eq_mergeBlocks (f : Word → Word → Word → Word × Word) {d b : Nat} {sub gs pre p : List Word}
    (hgs : ∀ j, j < gs.length → at' sub (b + j) = at' gs j) (hpre : pre.length = b * (2 * d))
    (hp : gs.length * (2 * d) ≤ p.length) :
    (List.range' b gs.length).foldl (fun p j => loop d (fun p k => pairBody f (at' sub j) d p (j * (2 * d) + k)) p) (pre ++ p) =
      pre ++ mergeBlocks f d gs p := by
  induction gs generalizing b pre p with
  | nil => rfl
  | cons g gs ih =>
    rw [List.length_cons, Nat.add_mul, Nat.one_mul] at hp
    have hblk : (p.take (2 * d)).length = 2 * d := List.length_take_of_le (by omega)
    have hg : at' sub b = g := hgs 0 (Nat.succ_pos _)
    have hfirst : loop d (fun p k => pairBody f (at' sub b) d p (b * (2 * d) + k)) (pre ++ p) =
        (pre ++ mergeBlock f d g (p.take (2 * d))) ++ p.drop (2 * d) := by
      rw [hg, ← hpre, ← (inPlace_mergeBlock f d g).apply pre _ _ hblk, List.append_assoc, List.take_append_drop]
    have hpre' : (pre ++ mergeBlock f d g (p.take (2 * d))).length = (b + 1) * (2 * d) := by
      rw [List.length_append, hpre, length_mergeBlock hblk, Nat.add_mul, Nat.one_mul]
    have hgs' : ∀ j, j < gs.length → at' sub (b + 1 + j) = at' gs j := fun j hj => by
      rw [Nat.add_assoc, Nat.add_comm 1 j]
      exact hgs (j + 1) (Nat.succ_lt_succ hj)
    rw [List.length_cons, List.range'_succ, List.foldl_cons, hfirst, ih hgs' hpre' (by rw [List.length_drop]; omega),
      List.append_assoc, mergeBlocks]

section Level

variable {m i : Nat} (hi : i < m) {p : List Word} (hp : p.length = 2 ^ m) {f f' : Word → Word → Word → Word × Word}
  {sub : List Word}

include hi in
theorem blocks_mul_level : 2 ^ i * (2 * 2 ^ (m - 1 - i)) = 2 ^ m := by
  rw [← Nat.pow_succ', ← Nat.pow_add]
  congr 1
  omega

include hi hp

theorem level_fits (sub : List Word) : (sub.take (2 ^ i)).length * (2 * 2 ^ (m - 1 - i)) ≤ p.length := by
  rw [hp, ← blocks_mul_level hi]
  exact Nat.mul_le_mul_right _ (List.length_take_le _ _)

theorem length_mergeLevel : (mergeLevel f m sub p i).length = 2 ^ m :=
  (length_mergeBlocks (level_fits hi hp sub)).trans hp

theorem Undoes.mergeLevel_mergeLevel (h : Undoes f' f) : mergeLevel f' m sub (mergeLevel f m sub p i) i = p :=
  h.mergeBlocks_mergeBlocks (level_fits hi hp sub)

/-- A merge level is the two inner loops of R171 and R180. -/
theorem levelLoops_eq_mergeLevel (hsub : sub.length = 2 ^ (m - 1)) : levelLoops f m sub p i = mergeLevel f m sub p i := by
  have hle : 2 ^ i ≤ sub.length := hsub ▸ Nat.pow_le_pow_right (by decide) (by omega)
  have hlen : (sub.take (2 ^ i)).length = 2 ^ i := List.length_take_of_le hle
  have h := foldl_blocks_eq_mergeBlocks f (b := 0) (sub := sub) (gs := sub.take (2 ^ i)) (pre := [])
    (fun j hj => by rw [Nat.zero_add, at'_take (hlen ▸ hj)]) (by simp) (level_fits hi hp sub)
  rw [hlen, ← List.range_eq_range'] at h
  exact h

end Level

/-! ## All levels (R171, R180) -/

theorem mem_levels {m i : Nat} (h : i ∈ List.range' 1 (m - 1)) : 1 ≤ i ∧ i < m := by
  have := List.mem_range'_1.mp h
  omega

theorem mem_reverse_levels {m i : Nat} (h : i ∈ (List.range' 1 (m - 1)).reverse) : 1 ≤ i ∧ i < m :=
  mem_levels (List.mem_reverse.mp h)

section Levels

variable {m : Nat} {l : List Nat} (hl : ∀ i ∈ l, 1 ≤ i ∧ i < m) {p : List Word} (hp : p.length = 2 ^ m)
  {f f' : Word → Word → Word → Word × Word} {sub : List Word}
include hl hp

theorem length_foldl_mergeLevel : (l.foldl (mergeLevel f m sub) p).length = 2 ^ m :=
  List.foldlRecOn (motive := fun q : List Word => q.length = 2 ^ m) _ _ hp fun _ hq i hi => length_mergeLevel (hl i hi).2 hq

theorem foldl_levelLoops_eq_mergeLevel (hsub : sub.length = 2 ^ (m - 1)) :
    l.foldl (levelLoops f m sub) p = l.foldl (mergeLevel f m sub) p :=
  foldl_congr_of_keeps (P := fun q : List Word => q.length = 2 ^ m) hp fun i hi _ hq =>
    have heq := levelLoops_eq_mergeLevel (hl i hi).2 hq hsub
    ⟨heq ▸ length_mergeLevel (hl i hi).2 hq, heq⟩

/-- The levels in reverse order, each undoing its own (R179). -/
theorem Undoes.foldl_mergeLevel_reverse (h : Undoes f' f) :
    l.reverse.foldl (mergeLevel f' m sub) (l.foldl (mergeLevel f m sub) p) = p :=
  foldl_reverse_foldl (P := fun q : List Word => q.length = 2 ^ m) hp fun i hi _ hq =>
    ⟨length_mergeLevel (hl i hi).2 hq, h.mergeLevel_mergeLevel (hl i hi).2 hq⟩

end Levels

section Transforms

variable (F : GF) {m : Nat} (hm : 1 ≤ m) (sub : List Word) {p : List Word} (hp : p.length = 2 ^ m)

include hp in
theorem length_fftl : (fftl F m sub p).length = 2 ^ m :=
  length_foldl_mergeLevel (fun _ => mem_levels) (length_leafPass hp)

include hp in
theorem length_ifftl : (ifftl F m sub p).length = 2 ^ m :=
  length_leafPass (length_foldl_mergeLevel (fun _ => mem_reverse_levels) hp)

include hm hp

theorem ifftl_fftl : ifftl F m sub (fftl F m sub p) = p := by
  rw [ifftl, fftl, Undoes.foldl_mergeLevel_reverse (fun _ => mem_levels) (length_leafPass hp) F.ibfly_bfly,
    leafPass_leafPass hm hp]

theorem fftl_ifftl : fftl F m sub (ifftl F m sub p) = p := by
  have h := Undoes.foldl_mergeLevel_reverse (sub := sub) (fun _ => mem_reverse_levels) hp F.bfly_ibfly
  rw [List.reverse_reverse] at h
  rw [fftl, ifftl, leafPass_leafPass hm (length_foldl_mergeLevel (fun _ => mem_reverse_levels) hp), h]

theorem ifft_fft : ifft F m sub (fft F m sub p) = p := by
  rw [ifft, fft, ifftl_fftl F hm sub (length_radix hp), iradix_radix hp]

theorem fft_ifft : fft F m sub (ifft F m sub p) = p := by
  rw [fft, ifft, radix_iradix (length_ifftl F sub hp), fftl_ifftl F hm sub hp]

end Transforms

end Sys2Proof.Machine

namespace Sys2Proof.Proofs

open Sys2Proof.Machine

/-- Settles O42: each butterfly is undone by its inverse, the levels in reverse order, for any twiddle table (R179). -/
theorem transformsInvert : Obligations.TransformsInvert := fun F _ sub _ hm hp =>
  ⟨ifft_fft F hm sub hp, fft_ifft F hm sub hp, ifftl_fftl F hm sub hp, fftl_ifftl F hm sub hp⟩

end Sys2Proof.Proofs

namespace Sys2Proof.Machine

open Reference

/-! ## The transforms as the loops of R171, R173 and R180 -/

section Loops

variable {f : Word → Word → Word → Word × Word} {m : Nat} {sub p : List Word}

theorem loop_levelLoops : loop (m - 1) (fun p i => levelLoops f m sub p (i + 1)) p =
    (List.range' 1 (m - 1)).foldl (levelLoops f m sub) p := by
  rw [loop, List.range'_eq_map_range, List.foldl_map]
  simp only [Nat.add_comm 1]

theorem loopDown_levelLoops : loopDown (m - 1) (fun p i => levelLoops f m sub p (i + 1)) p =
    (List.range' 1 (m - 1)).reverse.foldl (levelLoops f m sub) p := by
  rw [loopDown, List.range'_eq_map_range, ← List.map_reverse, List.foldl_map]
  simp only [Nat.add_comm 1]

@[simp] theorem length_levelLoops (f : Word → Word → Word → Word × Word) (m : Nat) (sub p : List Word) (i : Nat) :
    (levelLoops f m sub p i).length = p.length :=
  List.foldlRecOn (motive := fun q : List Word => q.length = p.length) _ _ rfl fun _ hq _ _ =>
    List.foldlRecOn (motive := fun q : List Word => q.length = p.length) _ _ hq fun _ hq _ _ =>
      (length_pairBody ..).trans hq

theorem length_foldl_levelLoops (l : List Nat) : (l.foldl (levelLoops f m sub) p).length = p.length :=
  List.foldlRecOn (motive := fun q : List Word => q.length = p.length) _ _ rfl fun _ hq _ _ =>
    (length_levelLoops ..).trans hq

variable (F : GF) (hm : 1 ≤ m) (hp : p.length = 2 ^ m)
include hm hp

/-- `fft` of R173 up to the merge levels: the radix conversion and the leaf pass. -/
theorem fftLoops_eq_foldl : fftLoops F m sub p =
    (List.range' 1 (m - 1)).foldl (levelLoops F.bfly m sub) (leafPass m (radix m p)) := by
  rw [fftLoops, fftlLoops, loop_levelLoops, radixLoops_eq_radix hp, leafLoop_eq_leafPass hm (length_radix hp)]

theorem ifftLoops_eq_foldl : ifftLoops F m sub p =
    iradix m (leafPass m ((List.range' 1 (m - 1)).reverse.foldl (levelLoops F.ibfly m sub) p)) := by
  have hl := (length_foldl_levelLoops (f := F.ibfly) (m := m) (sub := sub) (p := p) (List.range' 1 (m - 1)).reverse).trans hp
  rw [ifftLoops, ifftlLoops, loopDown_levelLoops, leafLoop_eq_leafPass hm hl, iradixLoops_eq_iradix (length_leafPass hl)]

variable (hsub : sub.length = 2 ^ (m - 1))
include hsub

theorem fftlLoops_eq_fftl : fftlLoops F m sub p = fftl F m sub p := by
  rw [fftlLoops, loop_levelLoops, leafLoop_eq_leafPass hm hp,
    foldl_levelLoops_eq_mergeLevel (fun _ => mem_levels) (length_leafPass hp) hsub, fftl]

theorem ifftlLoops_eq_ifftl : ifftlLoops F m sub p = ifftl F m sub p := by
  rw [ifftlLoops, loopDown_levelLoops, foldl_levelLoops_eq_mergeLevel (fun _ => mem_reverse_levels) hp hsub,
    leafLoop_eq_leafPass hm (length_foldl_mergeLevel (fun _ => mem_reverse_levels) hp), ifftl]

theorem fftLoops_eq_fft : fftLoops F m sub p = fft F m sub p := by
  rw [fftLoops, radixLoops_eq_radix hp, fftlLoops_eq_fftl F hm (length_radix hp) hsub, fft]

theorem ifftLoops_eq_ifft : ifftLoops F m sub p = ifft F m sub p := by
  rw [ifftLoops, ifftlLoops_eq_ifftl F hm hp hsub, iradixLoops_eq_iradix (length_ifftl F sub hp), ifft]

end Loops

/-! ## The two workers (R183, R184) -/

/-- No butterfly of one worker is lost or done twice, in whichever order they move. -/
theorem interleave_perm (ts : List Worker) (xs ys : List Pair) : (interleave ts xs ys).1.Perm (xs ++ ys) := by
  induction ts, xs, ys using interleave.induct with
  | case1 xs ys => rfl
  | case2 t ts ys => rw [interleave, List.nil_append]
  | case3 t ts xs hne => rw [interleave.eq_3 _ _ _ hne, List.append_nil]
  | case4 ts x xs y ys ih => exact ih.cons x
  | case5 ts x xs y ys ih => exact (ih.cons y).trans List.perm_middle.symm

/-- The two butterflies touch no common index. -/
structure Pair.Apart (x y : Pair) : Prop where
  lower : x.k ≠ y.k
  lowerUpper : x.k ≠ y.k2
  upperLower : x.k2 ≠ y.k
  upper : x.k2 ≠ y.k2

theorem applyPair_comm {x y : Pair} (h : x.Apart y) (f : Word → Word → Word → Word × Word) (p : List Word) :
    applyPair f (applyPair f p x) y = applyPair f (applyPair f p y) x := by
  obtain ⟨hkk, hkk2, hk2k, hk2k2⟩ := h
  have hget {q : List Word} {i j : Nat} (hij : i ≠ j) (v : Word) : (q.set i v).getD j 0#64 = q.getD j 0#64 := by
    simp [List.getElem?_set_ne hij]
  simp only [applyPair, hget hkk, hget hkk2, hget hk2k, hget hk2k2, hget hkk.symm, hget hkk2.symm, hget hk2k.symm,
    hget hk2k2.symm]
  rw [List.set_comm _ _ hk2k, List.set_comm _ _ hkk, List.set_comm _ _ hk2k2, List.set_comm _ _ hkk2]

theorem mem_workerPairs {d j0 n : Nat} {sub : List Word} {x : Pair} (h : x ∈ workerPairs d sub j0 n) :
    ∃ j t, t < d ∧ x = ⟨j * (2 * d) + t, j * (2 * d) + t + d, sub.getD j 0#64⟩ := by
  obtain ⟨j, -, hx⟩ := List.mem_flatMap.mp h
  obtain ⟨t, ht, rfl⟩ := List.mem_map.mp hx
  exact ⟨j, t, List.mem_range.mp ht, rfl⟩

/-- Different butterflies of a level have no common index: an index determines its block and its place in it (R184). -/
theorem eq_or_apart_of_mem_workerPairs {d j0 n : Nat} {sub : List Word} {x y : Pair} (hx : x ∈ workerPairs d sub j0 n)
    (hy : y ∈ workerPairs d sub j0 n) : x = y ∨ x.Apart y := by
  obtain ⟨j, t, ht, rfl⟩ := mem_workerPairs hx
  obtain ⟨j', t', ht', rfl⟩ := mem_workerPairs hy
  have hpos {u u' : Nat} (hu : u < 2 * d) (hu' : u' < 2 * d) := mul_add_eq_mul_add_iff hu hu' j j'
  by_cases heq : j = j' ∧ t = t'
  · obtain ⟨rfl, rfl⟩ := heq
    exact .inl rfl
  · refine .inr ⟨?_, ?_, ?_, ?_⟩
    all_goals
      simp only [Nat.add_assoc, Ne]
      rw [hpos (by omega) (by omega)]
      omega

theorem workerPairs_append (d : Nat) (sub : List Word) (n n' : Nat) :
    workerPairs d sub 0 n ++ workerPairs d sub n n' = workerPairs d sub 0 (n + n') := by
  rw [workerPairs, workerPairs, ← List.flatMap_append, workerPairs, ← List.range'_append_1, Nat.zero_add]

/-- All butterflies of a level in block order are the two inner loops of R171 and R180. -/
theorem foldl_workerPairs (f : Word → Word → Word → Word × Word) (m : Nat) (sub p : List Word) (i : Nat) :
    (workerPairs (2 ^ (m - 1 - i)) sub 0 (2 ^ i)).foldl (applyPair f) p = levelLoops f m sub p i := by
  simp only [workerPairs, blockPairs, List.foldl_flatMap, List.foldl_map, ← List.range_eq_range']
  rfl

/-- Whatever order the workers move in, a level of theirs is the sequential level (R184). -/
theorem workerLevel_fst {i : Nat} (hi : 1 ≤ i) (f : Word → Word → Word → Word × Word) (m : Nat) (sub : List Word)
    (pt : List Word × List Worker) : (workerLevel f m sub pt i).1 = levelLoops f m sub pt.1 i := by
  have hperm := interleave_perm pt.2 (workerPairs (2 ^ (m - 1 - i)) sub 0 (2 ^ (i - 1)))
    (workerPairs (2 ^ (m - 1 - i)) sub (2 ^ (i - 1)) (2 ^ (i - 1)))
  rw [workerPairs_append, ← Nat.two_mul, ← two_mul_two_pow_pred hi] at hperm
  rw [← foldl_workerPairs]
  refine hperm.foldl_eq' (fun x hx y hy q => ?_) pt.1
  obtain rfl | hapart := eq_or_apart_of_mem_workerPairs (hperm.subset hx) (hperm.subset hy)
  · rfl
  · exact applyPair_comm hapart f q

theorem foldl_workerLevel_fst {l : List Nat} (hl : ∀ i ∈ l, 1 ≤ i) (f : Word → Word → Word → Word × Word) (m : Nat)
    (sub : List Word) (pt : List Word × List Worker) :
    (l.foldl (workerLevel f m sub) pt).1 = l.foldl (levelLoops f m sub) pt.1 := by
  induction l generalizing pt with
  | nil => rfl
  | cons i l ih =>
    obtain ⟨hi, hl⟩ := List.forall_mem_cons.mp hl
    rw [List.foldl_cons, List.foldl_cons, ih hl, workerLevel_fst hi]

section Concurrent

variable (F : GF) {m : Nat} (hm : 1 ≤ m) (sub : List Word) {p : List Word} (hp : p.length = 2 ^ m) (ts : List Worker)
include hm hp

theorem fftp_fst : (fftp F m sub p ts).1 = fftLoops F m sub p := by
  rw [fftLoops_eq_foldl F hm hp]
  exact foldl_workerLevel_fst (fun _ hi => (mem_levels hi).1) ..

theorem ifftp_fst : (ifftp F m sub p ts).1 = ifftLoops F m sub p := by
  rw [ifftLoops_eq_foldl F hm hp, ← foldl_workerLevel_fst (fun _ hi => (mem_reverse_levels hi).1) F.ibfly m sub (p, ts)]
  rfl

end Concurrent

/-! ## The six commands (R172, R174) -/

section Transform

variable {i : Instr} {d : PReg} {k : State → Result} (h : ∀ s, exec i s = domainCheck (encode i) d s (k s))
include h

theorem fails_noBasis : Fails i (fun s => s.basisM = 0) 0x11 0 (fun _ => 0) := fun s hs => by
  rw [h, domainCheck, if_pos hs, raise_eq_afterError]
  rfl

theorem fails_domainLength :
    Fails i (fun s => s.basisM ≠ 0 ∧ s.len d ≠ 2 ^ s.basisM) 0x02 2 (fun s => s.len d) := fun s ⟨hb, hl⟩ => by
  rw [h, domainCheck, if_neg hb, if_pos (show s.len d ≠ s.domain from hl), raise_eq_afterError]
  rfl

theorem exec_of_fits {s : State} (hs : Fits s d) : exec i s = k s :=
  (h s).trans (domainCheck_ok hs.1 hs.2)

end Transform

/-- A sequential transform: the checks, and a function of the active field and its tables that the loops `value` compute. -/
theorem transformRule {i : Instr} {d : PReg} {f value : GF → Nat → List Word → List Word → List Word}
    (h : ∀ s, exec i s = domainCheck (encode i) d s (finish (s.setBuf d (f s.field s.basisM s.sub (s.buf d)))))
    (hf : ∀ F m sub p, 1 ≤ m → p.length = 2 ^ m → sub.length = 2 ^ (m - 1) →
      value F m sub p = f F m sub p) : TransformRule i d fun s => value s.field s.basisM s.sub (s.buf d) :=
  ⟨fails_noBasis h, fails_domainLength h, fun s ⟨hfits, hsub⟩ =>
    ⟨_, exec_of_fits h hfits,
      (s.setBuf_buf_self d _).trans (hf _ _ _ _ (Nat.one_le_iff_ne_zero.mpr hfits.1) hfits.2 hsub).symm,
      .setBuf s d _, rfl, rfl, rfl⟩⟩

theorem Completes.setTurns {regs : List EReg} {bufs : List PReg} {s t : State} (h : Completes regs bufs false s t)
    (ts : List Worker) : Completes regs bufs false s (t.setTurns ts) := { h with }

/-- A concurrent transform from a state that fits: the buffer and the order of turns change, and nothing else. -/
theorem concurrentResult {i : Instr} {d : PReg} {f : State → List Word × List Worker} {p : List Word}
    (h : ∀ s, exec i s = domainCheck (encode i) d s (finish ((s.setBuf d (f s).1).setTurns (f s).2))) {s : State}
    (hs : Fits s d) (hp : (f s).1 = p) :
    ∃ t, exec i s = .next t ∧ t.buf d = p ∧ Completes [] [d] false s t ∧ t.entropy = s.entropy ∧ t.draws = s.draws :=
  ⟨_, exec_of_fits h hs, (s.setBuf_buf_self d _).trans hp, (Completes.setBuf s d (f s).1).setTurns (f s).2, rfl, rfl⟩

end Sys2Proof.Machine

namespace Sys2Proof

open Laws Reference

theorem assembles_fft (d : PReg) : Assembles (.fft d) 0x40 d.val 0 0 0 0 :=
  assembles_of_row 0x40#8 (ofPReg d) 0 0 0 0 (row_mem 14 (by decide)) (EncodingFits.fft d) rfl rfl
    (congrArg Instr.fft (toPReg_ofPReg d)) rfl

theorem assembles_ifft (d : PReg) : Assembles (.ifft d) 0x41 d.val 0 0 0 0 :=
  assembles_of_row 0x41#8 (ofPReg d) 0 0 0 0 (row_mem 15 (by decide)) (EncodingFits.ifft d) rfl rfl
    (congrArg Instr.ifft (toPReg_ofPReg d)) rfl

theorem assembles_fftl (d : PReg) : Assembles (.fftl d) 0x42 d.val 0 0 0 0 :=
  assembles_of_row 0x42#8 (ofPReg d) 0 0 0 0 (row_mem 16 (by decide)) (EncodingFits.fftl d) rfl rfl
    (congrArg Instr.fftl (toPReg_ofPReg d)) rfl

theorem assembles_ifftl (d : PReg) : Assembles (.ifftl d) 0x43 d.val 0 0 0 0 :=
  assembles_of_row 0x43#8 (ofPReg d) 0 0 0 0 (row_mem 17 (by decide)) (EncodingFits.ifftl d) rfl rfl
    (congrArg Instr.ifftl (toPReg_ofPReg d)) rfl

theorem assembles_fftp (d : PReg) : Assembles (.fftp d) 0x44 d.val 0 0 0 0 :=
  assembles_of_row 0x44#8 (ofPReg d) 0 0 0 0 (row_mem 18 (by decide)) (EncodingFits.fftp d) rfl rfl
    (congrArg Instr.fftp (toPReg_ofPReg d)) rfl

theorem assembles_ifftp (d : PReg) : Assembles (.ifftp d) 0x45 d.val 0 0 0 0 :=
  assembles_of_row 0x45#8 (ofPReg d) 0 0 0 0 (row_mem 19 (by decide)) (EncodingFits.ifftp d) rfl rfl
    (congrArg Instr.ifftp (toPReg_ofPReg d)) rfl

end Sys2Proof

namespace Sys2Proof.Proofs

open Sys2Proof.Machine Sys2Proof.Reference

/-- Settles O41: the workers' steps are those of the sequential level in another order, and any two of them commute (R181 to
R184). -/
theorem concurrentTransformsAgree : Obligations.ConcurrentTransformsAgree := fun d => by
  have hfftp (s : State) : exec (.fftp d) s = domainCheck (encode (.fftp d)) d s
      (finish ((s.setBuf d (fftp s.field s.basisM s.sub (s.buf d) s.turns).1).setTurns
        (fftp s.field s.basisM s.sub (s.buf d) s.turns).2)) := rfl
  have hifftp (s : State) : exec (.ifftp d) s = domainCheck (encode (.ifftp d)) d s
      (finish ((s.setBuf d (ifftp s.field s.basisM s.sub (s.buf d) s.turns).1).setTurns
        (ifftp s.field s.basisM s.sub (s.buf d) s.turns).2)) := rfl
  refine ⟨⟨assembles_fftp d, assembles_ifftp d⟩, ?_, fun s hs _ => ?_⟩
  · rw [List.forall_mem_cons, List.forall_mem_singleton]
    exact ⟨⟨fails_noBasis hfftp, fails_domainLength hfftp⟩, fails_noBasis hifftp, fails_domainLength hifftp⟩
  · have hm : 1 ≤ s.basisM := Nat.one_le_iff_ne_zero.mpr hs.1
    exact ⟨concurrentResult hfftp hs (fftp_fst s.field hm s.sub hs.2 s.turns),
      concurrentResult hifftp hs (ifftp_fst s.field hm s.sub hs.2 s.turns)⟩

/-- Settles O40: the two checks in order, then the transform, which is the loops of its rule (R171, R173, R180). -/
theorem sequentialTransforms : Obligations.SequentialTransforms := fun d =>
  ⟨⟨assembles_fft d, transformRule (fun _ => rfl) fun F _ _ _ => fftLoops_eq_fft F⟩,
    ⟨assembles_ifft d, transformRule (fun _ => rfl) fun F _ _ _ => ifftLoops_eq_ifft F⟩,
    ⟨assembles_fftl d, transformRule (fun _ => rfl) fun F _ _ _ => fftlLoops_eq_fftl F⟩,
    ⟨assembles_ifftl d, transformRule (fun _ => rfl) fun F _ _ _ => ifftlLoops_eq_ifftl F⟩⟩

end Sys2Proof.Proofs

/-!
PROOFS. What the forward transform computes (43_fft.md R176), in residues modulo the polynomial of the field: a list is a
polynomial whose term at an index is the product of the weights of the index's bits; the radix conversion turns the weights
`x, x^2, x^4, ...` into `x, S(x), S(S(x)), ...` with `S(x) = x^2 + x`, and each merge level takes in one more weight.
-/

namespace Sys2Proof.Machine

open Reference

/-! ## Sums weighted by the bits of the index -/

section Weights

variable {R : Type} [CommRing R]

/-- The sum of the `a j`, each times the weights of the bits that are set in `j`; the first weight is that of the lowest bit. -/
def bitEval : List R → (Nat → R) → R
  | [], a => a 0
  | w :: ws, a => bitEval ws (fun j => a (2 * j)) + w * bitEval ws (fun j => a (2 * j + 1))

/-- The weights of the monomials: `x, x^2, x^4, ...`. -/
def powerWeights : Nat → R → List R
  | 0, _ => []
  | k + 1, x => x :: powerWeights k (x ^ 2)

/-- The weights after the radix conversion: `x, S(x), S(S(x)), ...` with `S(x) = x^2 + x` (R150, R176). -/
def towerWeights : Nat → R → List R
  | 0, _ => []
  | k + 1, x => x :: towerWeights k (x ^ 2 + x)

theorem bitEval_congr (ws : List R) {a b : Nat → R} (h : ∀ j, j < 2 ^ ws.length → a j = b j) : bitEval ws a = bitEval ws b := by
  induction ws generalizing a b with
  | nil => exact h 0 (Nat.two_pow_pos 0)
  | cons w ws ih =>
    rw [List.length_cons, Nat.pow_succ'] at h
    rw [bitEval, bitEval, ih fun j hj => h (2 * j) (by omega), ih fun j hj => h (2 * j + 1) (by omega)]

theorem bitEval_add (ws : List R) (a b : Nat → R) : bitEval ws (fun j => a j + b j) = bitEval ws a + bitEval ws b := by
  induction ws generalizing a b with
  | nil => rfl
  | cons w ws ih =>
    simp only [bitEval, ih]
    ring

theorem bitEval_append (ws vs : List R) (a : Nat → R) :
    bitEval (ws ++ vs) a = bitEval ws fun t => bitEval vs fun j => a (j * 2 ^ ws.length + t) := by
  induction ws generalizing a with
  | nil => simp [bitEval]
  | cons w ws ih =>
    have heven (j t : Nat) : 2 * (j * 2 ^ ws.length + t) = j * 2 ^ (ws.length + 1) + 2 * t := by ring
    simp only [List.cons_append, bitEval, ih, List.length_cons, heven, Nat.add_assoc]

theorem sum_range_two_mul (f : Nat → R) (n : Nat) :
    ∑ j ∈ Finset.range (2 * n), f j = ∑ j ∈ Finset.range n, f (2 * j) + ∑ j ∈ Finset.range n, f (2 * j + 1) := by
  induction n with
  | zero => simp
  | succ n ih =>
    rw [show 2 * (n + 1) = 2 * n + 1 + 1 from rfl, Finset.sum_range_succ, Finset.sum_range_succ, ih, Finset.sum_range_succ,
      Finset.sum_range_succ]
    ring

/-- With the weights of the monomials the sum is the value of the polynomial. -/
theorem bitEval_powerWeights (k : Nat) (x : R) (a : Nat → R) :
    bitEval (powerWeights k x) a = ∑ j ∈ Finset.range (2 ^ k), a j * x ^ j := by
  induction k generalizing x a with
  | zero => simp [powerWeights, bitEval]
  | succ k ih =>
    rw [powerWeights, bitEval, ih, ih, Nat.pow_succ', sum_range_two_mul, Finset.mul_sum]
    simp only [← pow_mul]
    congr 1
    refine Finset.sum_congr rfl fun j _ => ?_
    ring

/-- One step of the Taylor expansion, `2 = 0`: with quarters `q0 q1 q2 q3` and `u` the weight of the lower bit,
`q0 + q1 u + (q2 + q3 u) u^2 = q0 + (q1 + q2 + q3) u + (q2 + q3 + q3 u) (u^2 + u)` (R160). -/
theorem bitEval_taylor (htwo : (2 : R) = 0) (u : R) (vs : List R) {a b : Nat → R} (h0 : ∀ j, b (4 * j) = a (4 * j))
    (h1 : ∀ j, b (4 * j + 1) = a (4 * j + 1) + (a (4 * j + 2) + a (4 * j + 3)))
    (h2 : ∀ j, b (4 * j + 2) = a (4 * j + 2) + a (4 * j + 3)) (h3 : ∀ j, b (4 * j + 3) = a (4 * j + 3)) :
    bitEval (u :: u ^ 2 :: vs) a = bitEval (u :: (u ^ 2 + u) :: vs) b := by
  have e0 (j : Nat) : 2 * (2 * j) = 4 * j := by ring
  have e2 (j : Nat) : 2 * (2 * j + 1) = 4 * j + 2 := by ring
  simp only [bitEval, e0, e2, h0, h1, h2, h3, bitEval_add]
  linear_combination -(u * bitEval vs (fun j => a (4 * j + 2)) + u * bitEval vs (fun j => a (4 * j + 3)) +
    u ^ 2 * bitEval vs (fun j => a (4 * j + 3))) * htwo

end Weights

/-! ## The radix conversion on weighted sums (R160) -/

/-- The entries of a list as residues. -/
noncomputable def GF.coeffs (F : GF) (p : List Word) : Nat → AdjoinRoot (toPoly F.poly) := fun j => F.residue (at' p j)

theorem GF.two_eq_zero (F : GF) : (2 : AdjoinRoot (toPoly F.poly)) = 0 := by
  have h : (2 : ZMod 2) = 0 := rfl
  rw [← map_ofNat (algebraMap (ZMod 2) (AdjoinRoot (toPoly F.poly))) 2, h, map_zero]

/-- Entry `i` of block `b` after `f` has gone over the blocks. -/
theorem at'_mapBlocks {f : List Word → List Word} {d : Nat} (hf : ∀ blk, blk.length = d → (f blk).length = d) {n b i : Nat}
    {p : List Word} (hp : n * d ≤ p.length) (hb : b < n) (hi : i < d) :
    at' (mapBlocks f d n p) (b * d + i) = at' (f ((p.drop (b * d)).take d)) i := by
  induction n generalizing p b with
  | zero => exact absurd hb (Nat.not_lt_zero b)
  | succ n ih =>
    rw [Nat.add_mul, Nat.one_mul] at hp
    have hl : (f (p.take d)).length = d := hf _ (List.length_take_of_le (by omega))
    cases b with
    | zero => rw [mapBlocks, Nat.zero_mul, Nat.zero_add, at'_append_left (hl.symm ▸ hi), List.drop_zero]
    | succ b =>
      have hpos : (b + 1) * d + i = (f (p.take d)).length + (b * d + i) := by rw [hl]; ring
      have hdrop : d + b * d = (b + 1) * d := by ring
      rw [mapBlocks, hpos, at'_append_right, ih (by rw [List.length_drop]; omega) (Nat.lt_of_succ_lt_succ hb), List.drop_drop,
        hdrop]

/-- Row `q` of block `b`, where blocks have `n` rows. -/
theorem column_block {n c b q t : Nat} (hq : q < n) (ht : t < c) (p : List Word) :
    column c ((p.drop (b * (n * c))).take (n * c)) t q = column c p t (n * b + q) := by
  have hpos : b * (n * c) + (q * c + t) = (n * b + q) * c + t := by ring
  rw [column, at'_take (mul_add_lt_mul hq ht), at'_drop, hpos, column]

/-- One sweep on the columns: in each block the two statements of R160, the second on what the first wrote. -/
theorem column_sweep {m i t q : Nat} (hi : i + 2 ≤ m) {p : List Word} (hp : p.length = 2 ^ m) (ht : t < 2 ^ (m - i - 2))
    (hq : q < 4) (b : Nat) : column (2 ^ (m - i - 2)) (sweep radixBlock m p i) t (4 * b + q) =
      columnAdd 1 2 (columnAdd 2 3 fun j => column (2 ^ (m - i - 2)) p t (4 * b + j)) q := by
  have hd := blockSize_eq hi
  have hblocks := blocks_mul_blockSize hi
  have hsweep := length_sweep hi hp fun _ _ => length_radixBlock
  unfold sweep at hsweep ⊢
  generalize 2 ^ (m - i - 2) = c at *
  rw [hd] at hblocks hsweep ⊢
  rcases Nat.lt_or_ge b (2 ^ i) with hb | hb
  · have hend : (b + 1) * (4 * c) ≤ 2 ^ i * (4 * c) := Nat.mul_le_mul_right _ hb
    rw [Nat.add_mul] at hend
    have hblk : ((p.drop (b * (4 * c))).take (4 * c)).length = 4 * c :=
      List.length_take_of_le (by rw [List.length_drop]; omega)
    have hrows {r : Nat} (hr : r < 4) := column_block (b := b) hr ht p
    have hpos : (4 * b + q) * c + t = b * (4 * c) + (q * c + t) := by ring
    rw [column, hpos, at'_mapBlocks (fun _ => length_radixBlock) (by omega) hb (mul_add_lt_mul hq ht), ← column, column_radixBlock hblk ht]
    interval_cases q <;> simp [columnAdd, hrows]
  · have hn : 2 ^ m = 4 * 2 ^ i * c := by rw [← hblocks]; ring
    have hzero {p : List Word} (hp : p.length = 2 ^ m) (j : Nat) : column c p t (4 * b + j) = 0#64 :=
      column_eq_zero (hp.trans hn) (by omega) t
    have hcol : (fun j => column c p t (4 * b + j)) = fun _ => 0#64 := funext (hzero hp)
    rw [hzero hsweep, hcol]
    interval_cases q <;> simp [columnAdd]

section Radix

variable (F : GF) {m : Nat} {ws : List (AdjoinRoot (toPoly F.poly))}

/-- The sweep at `i` turns the weight `u^2` of its upper bit into `u^2 + u`, where `u` is the weight of the bit below. -/
theorem bitEval_sweep {i : Nat} (hm : m = ws.length + i + 2) (u : AdjoinRoot (toPoly F.poly))
    (vs : List (AdjoinRoot (toPoly F.poly))) {p : List Word} (hp : p.length = 2 ^ m) :
    bitEval (ws ++ u :: u ^ 2 :: vs) (F.coeffs p) =
      bitEval (ws ++ u :: (u ^ 2 + u) :: vs) (F.coeffs (sweep radixBlock m p i)) := by
  have hc : m - i - 2 = ws.length := by omega
  rw [bitEval_append, bitEval_append]
  refine bitEval_congr _ fun t ht => ?_
  have hrow {q : Nat} (hq : q < 4) (b : Nat) :=
    congrArg F.residue (column_sweep (i := i) (by omega) hp (hc.symm ▸ ht) hq b)
  simp only [hc, column] at hrow
  refine bitEval_taylor F.two_eq_zero u vs (fun b => ?_) (fun b => ?_) (fun b => ?_) fun b => ?_
  · simpa [columnAdd, GF.coeffs] using hrow (q := 0) (by decide) b
  · simpa [columnAdd, GF.coeffs] using hrow (q := 1) (by decide) b
  · simpa [columnAdd, GF.coeffs] using hrow (q := 2) (by decide) b
  · simpa [columnAdd, GF.coeffs] using hrow (q := 3) (by decide) b

/-- One round of sweeps is the Taylor expansion at `x^2 + x`: from the weights `x, x^2, x^4, ...` to `x` and the powers of
`x^2 + x`. The weights `ws` of the lower bits stay. -/
theorem bitEval_round {k : Nat} (hm : m = ws.length + k + 1) (x : AdjoinRoot (toPoly F.poly)) {p : List Word}
    (hp : p.length = 2 ^ m) : bitEval (ws ++ powerWeights (k + 1) x) (F.coeffs p) =
      bitEval (ws ++ x :: powerWeights k (x ^ 2 + x)) (F.coeffs ((List.range k).foldl (sweep radixBlock m) p)) := by
  induction k generalizing ws x with
  | zero => rfl
  | succ k ih =>
    have hsquare : (x ^ 2) ^ 2 + x ^ 2 = (x ^ 2 + x) ^ 2 := by linear_combination -x ^ 3 * F.two_eq_zero
    have hlen : ((List.range k).foldl (sweep radixBlock m) p).length = 2 ^ m :=
      length_foldl_sweep (fun _ _ => length_radixBlock) (fun i hi => by have := List.mem_range.mp hi; omega) hp
    have hm' : m = (ws ++ [x]).length + k + 1 := by rw [List.length_append, List.length_singleton]; omega
    rw [powerWeights, List.append_cons, ih hm', hsquare, ← List.append_cons, bitEval_sweep F (by omega) _ _ hlen,
      List.range_succ, List.foldl_append]
    rfl

theorem radixSweeps_succ (k : Nat) : radixSweeps (k + 1) = List.range k ++ radixSweeps k := by
  cases k with
  | zero => rfl
  | succ k =>
    have hround (r : Nat) : k + 1 + 1 - (r + 1) - 1 = k + 1 - r - 1 := by omega
    simp only [radixSweeps, Nat.add_sub_cancel, List.range_succ_eq_map, List.flatMap_cons, List.flatMap_map, hround,
      Nat.sub_zero]

theorem bitEval_radixSweeps {k : Nat} (hm : m = ws.length + k) (x : AdjoinRoot (toPoly F.poly)) {p : List Word}
    (hp : p.length = 2 ^ m) : bitEval (ws ++ powerWeights k x) (F.coeffs p) =
      bitEval (ws ++ towerWeights k x) (F.coeffs ((radixSweeps k).foldl (sweep radixBlock m) p)) := by
  induction k generalizing ws x p with
  | zero => rfl
  | succ k ih =>
    have hlen : ((List.range k).foldl (sweep radixBlock m) p).length = 2 ^ m :=
      length_foldl_sweep (fun _ _ => length_radixBlock) (fun i hi => by have := List.mem_range.mp hi; omega) hp
    have hm' : m = (ws ++ [x]).length + k := by rw [List.length_append, List.length_singleton]; omega
    rw [bitEval_round F (by omega) x hp, List.append_cons, ih hm' _ hlen, radixSweeps_succ, List.foldl_append,
      ← List.append_cons, towerWeights]

/-- The radix conversion rewrites a polynomial in the products of `x, S(x), S(S(x)), ...` (R160, R176). -/
theorem bitEval_radix (x : AdjoinRoot (toPoly F.poly)) {p : List Word} (hp : p.length = 2 ^ m) :
    bitEval (powerWeights m x) (F.coeffs p) = bitEval (towerWeights m x) (F.coeffs (radix m p)) :=
  bitEval_radixSweeps F (ws := []) (Nat.zero_add m).symm x hp

end Radix

/-! ## The evaluation points (R153, R154, R176) -/

/-- What the transform needs of the points and the twiddles, in residues. -/
structure GF.Points (F : GF) (m : Nat) (comb sub : List Word) : Prop where
  zero : F.coeffs comb 0 = 0
  odd : ∀ b, b < 2 ^ (m - 1) → F.coeffs comb (2 * b + 1) = F.coeffs comb (2 * b) + 1
  half : ∀ e, e < 2 ^ m → F.coeffs comb e ^ 2 + F.coeffs comb e = F.coeffs comb (e / 2)
  twiddle : ∀ b, b < 2 ^ (m - 1) → F.coeffs sub b = F.coeffs comb (2 * b)
  subLength : sub.length = 2 ^ (m - 1)

end Sys2Proof.Machine

namespace Sys2Proof.Reference

open Sys2Proof.Machine

section Points

variable {F : GF} {g0 : Word} {m : Nat} {basis comb sub : List Word} (h : TablesAre F g0 m basis comb sub)
include h

theorem TablesAre.coeffs_comb {i j : Nat} (hi : i < m) (hj : j < 2 ^ i) :
    F.coeffs comb (2 ^ i + j) = F.coeffs comb j + F.coeffs basis (m - 1 - i) := by
  rw [GF.coeffs, h.combEntry i hi j hj, F.residue_xor]
  rfl

variable (hlast : at' basis (m - 1) = 1#64)
include hlast

theorem TablesAre.coeffs_odd {i b : Nat} (hi : i ≤ m) (hb : 2 * b + 1 < 2 ^ i) :
    F.coeffs comb (2 * b + 1) = F.coeffs comb (2 * b) + 1 := by
  induction i generalizing b with
  | zero => omega
  | succ i ih =>
    rw [Nat.pow_succ'] at hb
    rcases Nat.lt_or_ge (2 * b + 1) (2 ^ i) with hlt | hge
    · exact ih (by omega) hlt
    · cases i with
      | zero =>
        obtain rfl : b = 0 := by omega
        have hone := h.coeffs_comb hi (j := 0) (Nat.two_pow_pos 0)
        rwa [Nat.sub_zero, GF.coeffs, GF.coeffs, GF.coeffs, hlast, F.residue_one] at hone
      | succ i =>
        rw [Nat.pow_succ'] at hb hge
        obtain ⟨j, rfl⟩ : ∃ j, b = 2 ^ i + j := ⟨b - 2 ^ i, by omega⟩
        have heven : 2 * (2 ^ i + j) = 2 ^ (i + 1) + 2 * j := by ring
        rw [heven, Nat.add_assoc, h.coeffs_comb hi (by rw [Nat.pow_succ']; omega), ih (by omega) (by rw [Nat.pow_succ']; omega),
          h.coeffs_comb hi (by rw [Nat.pow_succ']; omega), add_right_comm]

variable (hsquare : ∀ t, t + 1 < m → F.coeffs basis t ^ 2 + F.coeffs basis t = F.coeffs basis (t + 1))
include hsquare

/-- `S` maps the point `e` to the point `e / 2`: it is additive, takes One to 0 and each basis element to the next. -/
theorem TablesAre.coeffs_half {i e : Nat} (hi : i ≤ m) (he : e < 2 ^ i) :
    F.coeffs comb e ^ 2 + F.coeffs comb e = F.coeffs comb (e / 2) := by
  induction i generalizing e with
  | zero =>
    obtain rfl : e = 0 := by omega
    rw [Nat.zero_div, GF.coeffs, h.combZero, F.residue_zero]
    ring
  | succ i ih =>
    rcases Nat.lt_or_ge e (2 ^ i) with hlt | hge
    · exact ih (by omega) hlt
    · rw [Nat.pow_succ'] at he
      obtain ⟨j, rfl⟩ := Nat.exists_eq_add_of_le hge
      have hj : j < 2 ^ i := by omega
      have hadd : F.coeffs comb (2 ^ i + j) ^ 2 + F.coeffs comb (2 ^ i + j) =
          F.coeffs comb (j / 2) + (F.coeffs basis (m - 1 - i) ^ 2 + F.coeffs basis (m - 1 - i)) := by
        rw [h.coeffs_comb hi hj]
        linear_combination ih (by omega) hj + F.coeffs comb j * F.coeffs basis (m - 1 - i) * F.two_eq_zero
      rw [hadd]
      cases i with
      | zero =>
        obtain rfl : j = 0 := by omega
        have hone : F.coeffs basis (m - 1 - 0) = 1 := by rw [Nat.sub_zero, GF.coeffs, hlast, F.residue_one]
        rw [hone]
        linear_combination F.two_eq_zero
      | succ i =>
        have hhalf : (2 ^ (i + 1) + j) / 2 = 2 ^ i + j / 2 := by rw [Nat.pow_succ']; omega
        have hnext : m - 1 - (i + 1) + 1 = m - 1 - i := by omega
        rw [Nat.pow_succ'] at hj
        rw [hhalf, h.coeffs_comb (by omega) (by omega), hsquare _ (by omega), hnext]

end Points

/-- The tables that `BASIS` builds, where the tower ends in One (R151). -/
theorem TablesAre.points {F : GF} (hF : FieldOk F) {g0 : Word} (hg : ∀ k, IsElem F.n (towerAt F g0 k)) {m : Nat}
    {basis comb sub : List Word} (h : TablesAre F g0 m basis comb sub) (h1 : 1 ≤ m) (hm : m ≤ F.n)
    (hone : towerAt F g0 (F.n - 1) = 1#64) : F.Points m comb sub := by
  have htwo := two_mul_two_pow_pred h1
  have hlast : at' basis (m - 1) = 1#64 := by
    rw [h.basisEntry _ (by omega), ← hone]
    congr 1
    omega
  have hsquare (t : Nat) (ht : t + 1 < m) : F.coeffs basis t ^ 2 + F.coeffs basis t = F.coeffs basis (t + 1) := by
    rw [GF.coeffs, GF.coeffs, h.basisEntry t (by omega), h.basisEntry (t + 1) ht, ← Nat.add_assoc, towerAt, F.residue_xor,
      GF.sqr_eq, hF.residue_mul (hg _) (hg _), pow_two]
  exact {
    zero := by rw [GF.coeffs, h.combZero, F.residue_zero]
    odd := fun b hb => h.coeffs_odd hlast (Nat.le_refl m) (by omega)
    half := fun e he => h.coeffs_half hlast hsquare (Nat.le_refl m) he
    twiddle := fun b hb => congrArg F.residue (h.subEntry b hb)
    subLength := h.subLength }

end Sys2Proof.Reference

namespace Sys2Proof.Machine

open Reference

/-! ## The merge levels on weighted sums (R171, R176) -/

/-- Entry `i` of block `b` after a merge level. -/
theorem at'_mergeBlocks (f : Word → Word → Word → Word × Word) {d b i : Nat} {gs p : List Word}
    (hp : gs.length * (2 * d) ≤ p.length) (hb : b < gs.length) (hi : i < 2 * d) :
    at' (mergeBlocks f d gs p) (b * (2 * d) + i) = at' (mergeBlock f d (at' gs b) ((p.drop (b * (2 * d))).take (2 * d))) i := by
  induction gs generalizing p b with
  | nil => exact absurd hb (Nat.not_lt_zero b)
  | cons g gs ih =>
    rw [List.length_cons, Nat.add_mul, Nat.one_mul] at hp
    have hl := length_mergeBlock (List.length_take_of_le (l := p) (i := 2 * d) (by omega)) f g
    cases b with
    | zero =>
      rw [mergeBlocks, Nat.zero_mul, Nat.zero_add, at'_append_left (hl.symm ▸ hi), List.drop_zero]
      rfl
    | succ b =>
      have hpos : (b + 1) * (2 * d) + i = (mergeBlock f d g (p.take (2 * d))).length + (b * (2 * d) + i) := by rw [hl]; ring
      have hdrop : 2 * d + b * (2 * d) = (b + 1) * (2 * d) := by ring
      rw [mergeBlocks, hpos, at'_append_right, ih (by rw [List.length_drop]; omega) (Nat.lt_of_succ_lt_succ hb),
        List.drop_drop, hdrop]
      rfl

/-- A merge level on the columns: the butterfly of block `b` on its two rows. -/
theorem column_mergeLevel (f : Word → Word → Word → Word × Word) {m i b t q : Nat} (hi : i < m) {sub p : List Word}
    (hp : p.length = 2 ^ m) (hsub : sub.length = 2 ^ (m - 1)) (hb : b < 2 ^ i) (ht : t < 2 ^ (m - 1 - i)) (hq : q < 2) :
    column (2 ^ (m - 1 - i)) (mergeLevel f m sub p i) t (2 * b + q) =
      columnPair f (at' sub b) (fun j => column (2 ^ (m - 1 - i)) p t (2 * b + j)) q := by
  have hle : 2 ^ i ≤ sub.length := hsub ▸ Nat.pow_le_pow_right (by decide) (by omega)
  have hlen : (sub.take (2 ^ i)).length = 2 ^ i := List.length_take_of_le hle
  have hfits := level_fits hi hp sub
  unfold mergeLevel
  generalize 2 ^ (m - 1 - i) = d at *
  have hend : (b + 1) * (2 * d) ≤ 2 ^ i * (2 * d) := Nat.mul_le_mul_right _ hb
  rw [Nat.add_mul, ← hlen] at hend
  have hblk : ((p.drop (b * (2 * d))).take (2 * d)).length = 2 * d :=
    List.length_take_of_le (by rw [List.length_drop]; omega)
  have hrows {r : Nat} (hr : r < 2) := column_block (b := b) hr ht p
  have hpos : (2 * b + q) * d + t = b * (2 * d) + (q * d + t) := by ring
  rw [column, hpos, at'_mergeBlocks f hfits (hlen.symm ▸ hb) (mul_add_lt_mul hq ht), at'_take hb, ← column, column_mergeBlock hblk _ _ ht]
  interval_cases q <;> simp [hrows]

/-- What the buffer holds after merge level `i`, where `p` is the buffer before the leaf pass: row `e` is the value, at point
`e`, of `p` read as a polynomial in the products of `S^(m-1-i)(x), ..., S^(m-1)(x)`, column by column (R176). -/
structure GF.LevelHolds (F : GF) (m : Nat) (comb p : List Word) (i : Nat) (q : List Word) : Prop where
  length : q.length = 2 ^ m
  elems : Elems F.n q
  value : ∀ e, e < 2 ^ (i + 1) → ∀ t, t < 2 ^ (m - 1 - i) → F.residue (column (2 ^ (m - 1 - i)) q t e) =
    bitEval (towerWeights (i + 1) (F.coeffs comb e)) fun j => F.residue (column (2 ^ (m - 1 - i)) p t j)

section Levels

variable {F : GF} {m : Nat} {comb sub : List Word} (hpoints : F.Points m comb sub) (hm : 1 ≤ m) {p : List Word}
  (hp : p.length = 2 ^ m) (helems : Elems F.n p)
include hpoints

include hm hp helems in
/-- The leaf pass is the level whose two points are 0 and One. -/
theorem levelHolds_leafPass : F.LevelHolds m comb p 0 (leafPass m p) where
  length := length_leafPass hp
  elems := (leafPass_keeps F.n m p helems).1
  value e he t ht := by
    have hone : F.coeffs comb 1 = 1 := by
      have h := hpoints.odd 0 (Nat.two_pow_pos _)
      rwa [Nat.mul_zero, hpoints.zero, zero_add, zero_add] at h
    rw [Nat.sub_zero, column_leafPass hm hp ht]
    simp only [towerWeights, bitEval]
    interval_cases e
    · simp [columnAdd, hpoints.zero]
    · simp [columnAdd, hone, add_comm]

theorem GF.LevelHolds.mergeLevel (hF : FieldOk F) (hsub : Elems F.n sub) {i : Nat} (hi : i + 1 < m) {q : List Word}
    (h : F.LevelHolds m comb p i q) : F.LevelHolds m comb p (i + 1) (mergeLevel F.bfly m sub q (i + 1)) where
  length := length_mergeLevel hi h.length
  elems := (mergeLevel_keeps hF.bfly m hsub (i + 1) q h.elems).1
  value e he t ht := by
    obtain ⟨b, r, hr, rfl⟩ : ∃ b r, r < 2 ∧ e = 2 * b + r := ⟨e / 2, e % 2, Nat.mod_lt _ (by decide), by omega⟩
    have hb : b < 2 ^ (i + 1) := by rw [Nat.pow_succ'] at he; omega
    have hsize : 2 ^ (m - 1 - i) = 2 * 2 ^ (m - 1 - (i + 1)) := by
      rw [← Nat.pow_succ']
      congr 1
      omega
    have hbm : b < 2 ^ (m - 1) := hb.trans_le (Nat.pow_le_pow_right (by decide) (by omega))
    have hem : 2 * b + r < 2 ^ m := he.trans_le (Nat.pow_le_pow_right (by decide) (by omega))
    have hvalue := h.value b hb
    have hhalf : (2 * b + r) / 2 = b := by omega
    rw [column_mergeLevel F.bfly hi h.length hpoints.subLength hb ht hr, towerWeights, hpoints.half _ hem, hhalf, bitEval]
    rw [hsize] at hvalue
    generalize 2 ^ (m - 1 - (i + 1)) = d at *
    have hlow (p : List Word) (j : Nat) : column d p t (2 * j) = column (2 * d) p t j := by
      simp only [column]
      congr 1
      ring
    have hhigh (p : List Word) (j : Nat) : column d p t (2 * j + 1) = column (2 * d) p (t + d) j := by
      simp only [column]
      congr 1
      ring
    have hk : F.residue (column d q t (2 * b)) = _ := (congrArg _ (hlow q b)).trans (hvalue t (by omega))
    have hk2 : F.residue (column d q t (2 * b + 1)) = _ := (congrArg _ (hhigh q b)).trans (hvalue (t + d) (by omega))
    have hg : F.residue (at' sub b) = F.coeffs comb (2 * b) := hpoints.twiddle b hbm
    have hmul : F.residue (F.mul (at' sub b) (column d q t (2 * b + 1))) = _ :=
      hF.residue_mul (hsub.getD b) (h.elems.getD ((2 * b + 1) * d + t))
    simp only [hlow, hhigh]
    interval_cases r
    · simp only [columnPair_zero, GF.bfly, F.residue_xor, Nat.add_zero, hmul, hk, hk2, hg]
    · rw [hpoints.odd b hbm]
      simp only [columnPair_one, GF.bfly, F.residue_xor, Nat.add_zero, hmul, hk, hk2, hg]
      ring

/-- The forward lazy transform evaluates at every point (R171, R176). -/
theorem levelHolds_levels (hm : 1 ≤ m) (hp : p.length = 2 ^ m) (helems : Elems F.n p) (hF : FieldOk F)
    (hsub : Elems F.n sub) {n : Nat} (hn : n < m) :
    F.LevelHolds m comb p n ((List.range' 1 n).foldl (mergeLevel F.bfly m sub) (leafPass m p)) := by
  induction n with
  | zero => exact levelHolds_leafPass hpoints hm hp helems
  | succ n ih =>
    rw [List.range'_1_concat, List.foldl_append, Nat.add_comm 1 n]
    exact (ih (Nat.lt_of_succ_lt hn)).mergeLevel hpoints hF hsub hn

theorem residue_fftl (hm : 1 ≤ m) (hp : p.length = 2 ^ m) (helems : Elems F.n p) (hF : FieldOk F)
    (hsub : Elems F.n sub) {e : Nat} (he : e < 2 ^ m) :
    F.residue (at' (fftl F m sub p) e) = bitEval (towerWeights m (F.coeffs comb e)) (F.coeffs p) := by
  have h := (levelHolds_levels hpoints hm hp helems hF hsub (Nat.sub_one_lt_of_lt hm)).value e
  rw [Nat.sub_add_cancel hm, Nat.sub_self] at h
  have hvalue := h he 0 (Nat.two_pow_pos 0)
  simp only [column, pow_zero, Nat.mul_one, Nat.add_zero] at hvalue
  exact hvalue

end Levels

/-! ## Direct evaluation (R186, R193) -/

/-- What the loop of R193 holds before turn `t`: the coefficients from `t` on, evaluated. -/
structure GF.HornerHolds (F : GF) (p : List Word) (x : Word) (t : Nat) (acc : Word) : Prop where
  isElem : IsElem F.n acc
  value : ∑ j ∈ Finset.range t, F.coeffs p j * F.residue x ^ j + F.residue acc * F.residue x ^ t =
    ∑ j ∈ Finset.range p.length, F.coeffs p j * F.residue x ^ j

/-- Horner evaluation is the value of the polynomial. -/
theorem hornerHolds_evalLoop {F : GF} (hF : FieldOk F) {p : List Word} (hp : Elems F.n p) {x : Word} (hx : IsElem F.n x) :
    F.HornerHolds p x 0 (evalLoop F p x) := by
  rw [evalLoop, loopDown, List.foldl_reverse]
  refine foldr_range_induction (P := F.HornerHolds p x) ⟨.zero _, by simp⟩ fun t acc _ ⟨hacc, hvalue⟩ =>
    ⟨(hF.mul hacc x).xor (hp.getD t), ?_⟩
  have hcoeff : F.residue (at' p t) = F.coeffs p t := rfl
  rw [F.residue_xor, hF.residue_mul hacc hx, hcoeff, ← hvalue, Finset.sum_range_succ]
  ring

/-- The transform at index `e` is the evaluation at point `e` (R176). -/
theorem at'_fft {F : GF} (hF : FieldOk F) {m : Nat} (hm : 1 ≤ m) {comb sub p : List Word} (hpoints : F.Points m comb sub)
    (hcomb : Elems F.n comb) (hsub : Elems F.n sub) (hp : p.length = 2 ^ m) (helems : Elems F.n p) {e : Nat} (he : e < 2 ^ m) :
    at' (fft F m sub p) e = evalLoop F p (at' comb e) := by
  have hhorner := hornerHolds_evalLoop hF helems (hcomb.getD e)
  have hvalue : F.residue (evalLoop F p (at' comb e)) = ∑ j ∈ Finset.range (2 ^ m), F.coeffs p j * F.coeffs comb e ^ j := by
    have h := hhorner.value
    rwa [Finset.sum_range_zero, zero_add, pow_zero, mul_one, hp] at h
  refine hF.eq_of_residue_eq ((fft_keeps hF m hsub p helems).1.getD e) hhorner.isElem ?_
  rw [hvalue, ← bitEval_powerWeights, bitEval_radix F _ hp, fft,
    residue_fftl hpoints hm (length_radix hp) (radix_keeps F.n m p helems).1 hF hsub he]

theorem fft_eq_fftNaive {F : GF} (hF : FieldOk F) {m : Nat} (hm : 1 ≤ m) {comb sub p : List Word}
    (hpoints : F.Points m comb sub) (hcomb : Elems F.n comb) (hsub : Elems F.n sub) (hp : p.length = 2 ^ m)
    (helems : Elems F.n p) : fft F m sub p = fftNaive F m comb p := by
  have hl : (fft F m sub p).length = 2 ^ m := length_fftl F sub (length_radix hp)
  refine ext_at' (by simp [hl, fftNaive]) fun e he => ?_
  rw [hl] at he
  rw [at'_fft hF hm hpoints hcomb hsub hp helems he, fftNaive]
  simp [at', he]

/-! ## The active basis (R40 (d)) -/

theorem isElem_towerAt {F : GF} (hF : FieldOk F) {g0 : Word} (hg : IsElem F.n g0) (k : Nat) : IsElem F.n (towerAt F g0 k) := by
  induction k with
  | zero => exact hg
  | succ k ih => exact (hF.mul ih _).xor ih

section HasBasis

variable {s : State} (hs : s.HasBasis)
include hs

theorem State.HasBasis.points : s.field.Points s.basisM s.comb s.sub := by
  obtain ⟨h0, hspan, g0, hg, htower, hbasis, hcomb, hsub⟩ := hs
  have hn : s.basisM ≤ s.field.n := hspan.trans (Nat.min_le_left _ _)
  have h1 : 1 ≤ s.basisM := Nat.one_le_iff_ne_zero.mpr h0
  rw [getLast?_tower s.fieldOk.width.1, Option.some_inj] at htower
  rw [hsub, hcomb, hbasis]
  exact (tablesAre h1 hn g0).points s.fieldOk (isElem_towerAt s.fieldOk hg) h1 hn htower

theorem State.HasBasis.elems_comb : Elems s.field.n s.comb := by
  obtain ⟨-, -, g0, hg, -, hbasis, hcomb, -⟩ := hs
  rw [hcomb, hbasis]
  exact elems_combinations ((elems_towerFrom s.fieldOk hg _).drop _) _

theorem State.HasBasis.elems_sub : Elems s.field.n s.sub := by
  have hcomb := hs.elems_comb
  obtain ⟨-, -, _, _, _, _, _, hsub⟩ := hs
  exact hsub ▸ elems_evens hcomb

end HasBasis

end Sys2Proof.Machine

namespace Sys2Proof.Proofs

open Sys2Proof.Machine

/-- Settles O43: the radix conversion is a change of weights, and each merge level evaluates at one more of them (R176). -/
theorem transformEvaluates : Obligations.TransformEvaluates := fun s _ hs hp helems =>
  fft_eq_fftNaive s.fieldOk (Nat.one_le_iff_ne_zero.mpr hs.1) hs.points hs.elems_comb hs.elems_sub hp helems

end Sys2Proof.Proofs

/-!
PROOFS. The field of an irreducible polynomial (00_scope.md R6, R9): the residues modulo it are a finite field of `2^n` elements,
so the power `2^n - 2` of R125 is the inverse, and the batch inverter of R207 inverts every entry (44_poly.md R209).
-/

namespace Sys2Proof.Machine

open Polynomial

/-! ## Every short polynomial is a word's (R9) -/

/-- The word whose bits are the coefficients of a polynomial. -/
noncomputable def ofPoly (f : (ZMod 2)[X]) : Word := BitVec.ofFnLE fun i : Fin 64 => decide (f.coeff i = 1)

theorem toPoly_ofPoly {f : (ZMod 2)[X]} (hf : f.degree < (64 : Nat)) : toPoly (ofPoly f) = f := by
  ext i
  have hbit : ∀ c : ZMod 2, (if decide (c = 1) then 1 else 0) = c := by decide
  rw [toPoly_coeff, ofPoly, BitVec.getLsbD_ofFnLE]
  split
  · exact hbit _
  · next hi =>
    have h64 : (64 : WithBot Nat) ≤ i := by exact_mod_cast Nat.le_of_not_lt hi
    exact (coeff_eq_zero_of_degree_lt (hf.trans_le h64)).symm

theorem isElem_ofPoly {f : (ZMod 2)[X]} {n : Nat} (hn : n ≤ 64) (hf : f.degree < (n : Nat)) : IsElem n (ofPoly f) := by
  have h64 : (n : WithBot Nat) ≤ (64 : Nat) := by exact_mod_cast hn
  rwa [IsElem, ← toPoly_degree_lt, toPoly_ofPoly (hf.trans_le h64)]

/-- A polynomial that is no constant is a word above 1. -/
theorem one_lt_ofPoly {f : (ZMod 2)[X]} (hf : f.degree < (64 : Nat)) (h0 : 0 < f.degree) : 1 < (ofPoly f).toNat := by
  have hnot : ¬ (ofPoly f).toNat < 2 ^ 1 := fun hlt => by
    rw [← toPoly_degree_lt, toPoly_ofPoly hf, Nat.cast_one, Nat.WithBot.lt_one_iff_le_zero] at hlt
    exact hlt.not_gt h0
  omega

/-- A factor that is no unit has a positive degree and leaves the other factor a lower one. -/
theorem degree_of_mul_nonunit {p f g : (ZMod 2)[X]} (hp : p ≠ 0) (hfg : p = f * g) (hg : ¬ IsUnit g) :
    0 < g.degree ∧ f.degree < p.degree := by
  subst hfg
  have hf0 := left_ne_zero_of_mul hp
  have hg0 : 0 < g.degree := degree_pos_of_ne_zero_of_nonunit (right_ne_zero_of_mul hp) hg
  have hnat := natDegree_pos_iff_degree_pos.mpr hg0
  exact ⟨hg0, degree_lt_degree (by rw [natDegree_mul hf0 (right_ne_zero_of_mul hp)]; omega)⟩

end Sys2Proof.Machine

namespace Sys2Proof.Reference

open Sys2Proof.Machine Polynomial

section Irreducible

variable {F : GF} (hF : FieldOk F)
include hF

theorem FieldOk.degree_poly : (toPoly F.poly).degree = F.n := by
  refine le_antisymm (degree_le_iff_coeff_zero _ _ |>.mpr fun i hi => ?_) (le_degree_of_ne_zero ?_)
  · have hi : F.n < i := by exact_mod_cast hi
    simp [hF.poly_getLsbD hi.le, hi.ne']
  · simp [hF.poly_getLsbD le_rfl]

/-- A proper factor has a degree between 1 and `n - 1`, so it is a word that `GF.Irreducible` speaks of. -/
theorem FieldOk.irreducible_toPoly (hirr : F.Irreducible) : Irreducible (toPoly F.poly) := by
  have hdeg := hF.degree_poly
  obtain ⟨hpos, hn⟩ := hF.width
  have hne : toPoly F.poly ≠ 0 := fun h0 => by simp [h0] at hdeg
  have h64 : (F.n : WithBot Nat) ≤ (64 : Nat) := by exact_mod_cast hn
  refine ⟨fun hunit => ?_, fun f g hfg => ?_⟩
  · rw [isUnit_iff_degree_eq_zero, hdeg] at hunit
    exact absurd (by exact_mod_cast hunit) (Nat.one_le_iff_ne_zero.mp hpos)
  · by_contra! hboth
    obtain ⟨hg0, hf⟩ := degree_of_mul_nonunit hne hfg hboth.2
    obtain ⟨hf0, hg⟩ := degree_of_mul_nonunit hne (hfg.trans (mul_comm f g)) hboth.1
    rw [hdeg] at hf hg
    have hf64 := hf.trans_le h64
    have hg64 := hg.trans_le h64
    refine hirr (ofPoly f) (ofPoly g) (isElem_ofPoly hn hf) (isElem_ofPoly hn hg) (one_lt_ofPoly hf64 hf0)
      (one_lt_ofPoly hg64 hg0) (toPoly_injective ?_)
    rw [toPoly_clmul hn _ _ (isElem_ofPoly hn hg), toPoly_ofPoly hf64, toPoly_ofPoly hg64, hfg]

theorem FieldOk.residue_eq_zero_iff {a : Word} (ha : IsElem F.n a) : F.residue a = 0 ↔ a = 0#64 :=
  ⟨fun h => hF.eq_of_residue_eq ha (.zero _) (h.trans F.residue_zero.symm), fun h => h ▸ F.residue_zero⟩

theorem FieldOk.mul_swap {a b : Word} (ha : IsElem F.n a) (hb : IsElem F.n b) : F.mul a b = F.mul b a :=
  hF.eq_of_residue_eq (hF.mul ha b) (hF.mul hb a) (by rw [hF.residue_mul ha hb, hF.residue_mul hb ha, mul_comm])

end Irreducible

section Inverse

variable {F : GF} [hirr : Fact (Irreducible (toPoly F.poly))] (hF : FieldOk F)
include hF

/-- The residues are a field of `2^n` elements (R9), so the `2^n - 1`st power of a nonzero one is 1. -/
theorem FieldOk.pow_eq_one {y : AdjoinRoot (toPoly F.poly)} (hy : y ≠ 0) : y ^ (2 ^ F.n - 1) = 1 := by
  have hfin : Module.Finite (ZMod 2) (AdjoinRoot (toPoly F.poly)) := (AdjoinRoot.powerBasis hirr.out.ne_zero).finite
  have hfinite : Finite (AdjoinRoot (toPoly F.poly)) := Module.finite_of_finite (ZMod 2)
  have hcard : Nat.card (AdjoinRoot (toPoly F.poly)) = 2 ^ F.n := by
    rw [Module.natCard_eq_pow_finrank (K := ZMod 2), Nat.card_zmod, (AdjoinRoot.powerBasis hirr.out.ne_zero).finrank,
      AdjoinRoot.powerBasis_dim, natDegree_eq_of_degree_eq_some hF.degree_poly]
  have hfintype := Fintype.ofFinite (AdjoinRoot (toPoly F.poly))
  rw [← hcard, Nat.card_eq_fintype_card]
  exact FiniteField.pow_card_sub_one_eq_one y hy

theorem FieldOk.mul_nonzero {a b : Word} (ha : IsElem F.n a) (hb : IsElem F.n b) (ha0 : a ≠ 0#64) (hb0 : b ≠ 0#64) :
    F.mul a b ≠ 0#64 := by
  rw [Ne, ← hF.residue_eq_zero_iff ha] at ha0
  rw [Ne, ← hF.residue_eq_zero_iff hb] at hb0
  rw [Ne, ← hF.residue_eq_zero_iff (hF.mul ha b), hF.residue_mul ha hb]
  exact mul_ne_zero ha0 hb0

variable (hn : 2 ≤ F.n)
include hn

/-- The chain of R125 inverts residues, 0 to 0. -/
theorem FieldOk.residue_inv_eq {a : Word} (ha : IsElem F.n a) : F.residue (F.inv a) = (F.residue a)⁻¹ := by
  have hpow : 2 ^ 2 ≤ 2 ^ F.n := Nat.pow_le_pow_right (by decide) hn
  rw [hF.residue_inv ha]
  by_cases h0 : F.residue a = 0
  · rw [h0, zero_pow (by omega), GroupWithZero.inv_zero]
  · refine eq_inv_of_mul_eq_one_left ?_
    rw [← pow_succ, show 2 ^ F.n - 2 + 1 = 2 ^ F.n - 1 by omega, hF.pow_eq_one h0]

theorem FieldOk.inv_of_inv {a : Word} (ha : IsElem F.n a) : F.inv (F.inv a) = a := by
  refine hF.eq_of_residue_eq (hF.inv (hF.inv ha)) ha ?_
  rw [hF.residue_inv_eq hn (hF.inv ha), hF.residue_inv_eq hn ha, inv_inv]

theorem FieldOk.mul_inv_self {a : Word} (ha : IsElem F.n a) (h0 : a ≠ 0#64) : F.mul a (F.inv a) = 1#64 := by
  refine hF.eq_of_residue_eq (hF.mul ha _) (.one hF.width.1) ?_
  rw [hF.residue_mul ha (hF.inv ha), hF.residue_inv_eq hn ha, F.residue_one,
    mul_inv_cancel₀ ((hF.residue_eq_zero_iff ha).not.mpr h0)]

/-- What the backward pass of R207 does at one entry: the inverse of a product times one factor is the inverse of the other. -/
theorem FieldOk.inv_mul_mul {a b : Word} (ha : IsElem F.n a) (hb : IsElem F.n b) (h0 : a ≠ 0#64) :
    F.mul (F.inv (F.mul a b)) a = F.inv b := by
  have hab := hF.mul ha b
  refine hF.eq_of_residue_eq (hF.mul (hF.inv hab) a) (hF.inv hb) ?_
  rw [hF.residue_mul (hF.inv hab) ha, hF.residue_inv_eq hn hab, hF.residue_inv_eq hn hb, hF.residue_mul ha hb, mul_comm, mul_inv,
    mul_inv_cancel_left₀ ((hF.residue_eq_zero_iff ha).not.mpr h0)]

/-- Both passes of R207: the backward pass carries the inverse of the product before each entry. -/
theorem FieldOk.invPasses_eq {p : List Word} (hp : Elems F.n p) {acc : Word} (hacc : IsElem F.n acc) (h0 : acc ≠ 0#64) :
    invPasses F acc p = (p.map F.inv, F.inv acc) := by
  induction p generalizing acc with
  | nil => rfl
  | cons v vs ih =>
    obtain ⟨hv, hvs⟩ := elems_cons.mp hp
    unfold invPasses
    split
    · next hzero => rw [ih hvs hacc h0, List.map_cons, hzero, hF.inv_zero hn]
    · next hnz =>
      rw [ih hvs (hF.mul hacc v) (hF.mul_nonzero hacc hv h0 hnz), List.map_cons]
      simp only [hF.inv_mul_mul hn hacc hv h0]
      rw [hF.mul_swap hacc hv, hF.inv_mul_mul hn hv hacc hnz]

omit hirr in
theorem FieldOk.at'_map_inv (p : List Word) (i : Nat) : at' (p.map F.inv) i = F.inv (at' p i) := by
  rw [at', at', ← hF.inv_zero hn, List.getD_map, hF.inv_zero hn]

/-- The batch inverter is the elementwise inverse (R209). -/
theorem FieldOk.invSample_eq_map {p : List Word} (hp : Elems F.n p) : invSample F p = p.map F.inv := by
  rw [invSample, hF.invPasses_eq hn hp (.one hF.width.1) (by decide)]

end Inverse

end Sys2Proof.Reference

namespace Sys2Proof.Machine

/-- Both fields are wide enough for `inv(0) = 0` (R6, R136). -/
theorem Params.two_le_field_n (P : Params) (W : Width) : 2 ≤ (P.field W).n := by
  rw [Params.field_n]
  cases W <;> decide

theorem State.two_le_field_n (s : State) : 2 ≤ s.field.n := Params.two_le_field_n _ _

end Sys2Proof.Machine

/-!
PROOFS. The polynomial functions (44_poly.md) as the loops their rules write: Horner's rule (R193), the schoolbook product
(R195), the elementwise product (R197), the substitution (R204), and the degree (R191).
-/

namespace Sys2Proof.Machine

open Reference

/-! ## Products with 0 and 1 (R123) -/

theorem GF.mul_zero_right (F : GF) (a : Word) : F.mul a 0#64 = 0#64 := by
  have hclmul : F.clmul a 0#64 = 0#128 := by simp [GF.clmul]
  have hreduce : (List.range (F.n - 1)).foldr (fun t c => if c.getLsbD (F.n + t) then c ^^^ (F.poly <<< t) else c) 0#128 =
      0#128 := List.foldrRecOn (motive := (· = 0#128)) _ _ rfl fun c hc t _ => by simp [hc]
  rw [GF.mul_eq, hclmul, GF.reduce, hreduce]
  rfl

end Sys2Proof.Machine

namespace Sys2Proof.Reference

open Sys2Proof.Machine

variable {F : GF} (hF : FieldOk F)
include hF

theorem FieldOk.mul_one_right {a : Word} (ha : IsElem F.n a) : F.mul a 1#64 = a :=
  hF.eq_of_residue_eq (hF.mul ha _) ha (by rw [hF.residue_mul ha (.one hF.width.1), F.residue_one, mul_one])

end Sys2Proof.Reference

namespace Sys2Proof.Machine

open Reference

/-! ## Horner's rule (R193, R194) -/

theorem at'_cons_succ (c : Word) (cs : List Word) (i : Nat) : at' (c :: cs) (i + 1) = at' cs i := rfl

/-- The loop downward takes the first coefficient last. -/
theorem evalLoop_cons (F : GF) (c : Word) (cs : List Word) (x : Word) :
    evalLoop F (c :: cs) x = F.mul (evalLoop F cs x) x ^^^ c := by
  simp only [evalLoop, loopDown, List.foldl_reverse, List.length_cons, List.range_succ_eq_map, List.foldr_cons, List.foldr_map]
  rfl

theorem evalLoop_eq_evalPoly (F : GF) (p : List Word) (x : Word) : evalLoop F p x = evalPoly F p x := by
  induction p with
  | nil => rfl
  | cons c cs ih => rw [evalLoop_cons, ih]; rfl

theorem isElem_evalLoop {F : GF} (hF : FieldOk F) {p : List Word} (hp : Elems F.n p) (x : Word) : IsElem F.n (evalLoop F p x) :=
  evalLoop_eq_evalPoly F p x ▸ isElem_evalPoly hF hp x

theorem evalLoop_zero (F : GF) (c : Word) (cs : List Word) : evalLoop F (c :: cs) 0#64 = c := by
  rw [evalLoop_cons, F.mul_zero_right, BitVec.zero_xor]

theorem evalLoop_one {F : GF} (hF : FieldOk F) {p : List Word} (hp : Elems F.n p) :
    evalLoop F p 1#64 = p.foldl (· ^^^ ·) 0#64 := by
  rw [List.foldl_eq_foldr]
  induction p with
  | nil => rfl
  | cons c cs ih =>
    obtain ⟨hc, hcs⟩ := elems_cons.mp hp
    rw [evalLoop_cons, hF.mul_one_right (isElem_evalLoop hF hcs _), ih hcs, List.foldr_cons, BitVec.xor_comm]

/-! ## The schoolbook product (R195) -/

/-- The inner loop of R195 adds a row to the words from its start on. -/
theorem loop_addAt_eq_addRow (F : GF) (a : Word) (pre : List Word) {q r : List Word} (h : q.length ≤ r.length) :
    loop q.length (fun r j => addAt r (pre.length + j) (F.mul a (at' q j))) (pre ++ r) = pre ++ addRow (q.map (F.mul a)) r := by
  induction q generalizing pre r with
  | nil => rfl
  | cons v vs ih =>
    match r, h with
    | c :: cs, h =>
      have hnext := ih (pre ++ [c ^^^ F.mul a v]) (Nat.le_of_succ_le_succ h)
      have hfirst : addAt (pre ++ c :: cs) pre.length (F.mul a v) = pre ++ [c ^^^ F.mul a v] ++ cs := by simp [addAt, at']
      simp only [List.length_append, List.length_singleton, Nat.add_assoc, Nat.add_comm 1, List.append_assoc,
        List.singleton_append] at hnext hfirst
      rw [loop, List.length_cons, List.range_succ_eq_map, List.foldl_cons, List.foldl_map, Nat.add_zero]
      exact (congrArg _ hfirst).trans hnext

theorem loop_addAt_eq_convRow (F : GF) (a : Word) (i : Nat) {q r : List Word} (h : i + q.length ≤ r.length) :
    loop q.length (fun r j => addAt r (i + j) (F.mul a (at' q j))) r = convRow F q r (a, i) := by
  have hrow := loop_addAt_eq_addRow F a (r.take i) (q := q) (r := r.drop i) (by rw [List.length_drop]; omega)
  rwa [List.length_take, Nat.min_eq_left (by omega), List.take_append_drop] at hrow

/-- The entries with their indices, as the outer loop of R195 visits them. -/
theorem zipIdx_eq_map_range (p : List Word) : p.zipIdx = (List.range p.length).map fun i => (at' p i, i) :=
  List.ext_getElem (by simp) fun i h _ => by
    rw [List.length_zipIdx] at h
    simp [at', h]

theorem convLoops_eq_mulNaivePoly (F : GF) (p q : List Word) : convLoops F p q = mulNaivePoly F p q := by
  simp only [convLoops, mulNaivePoly, List.length_eq_zero_iff, zipIdx_eq_map_range, List.foldl_map]
  refine ite_congr rfl (fun _ => rfl) fun _ => ?_
  refine foldl_congr_of_keeps (P := fun r : List Word => r.length = p.length + q.length - 1) (length_zeros _) fun i hi r hr => ?_
  rw [List.mem_range] at hi
  rw [loop_addAt_eq_convRow F _ i (by omega), length_convRow]
  exact ⟨hr, rfl⟩

/-! ## The elementwise product and the substitution (R197, R204) -/

theorem product_eq_mulSample (F : GF) {p q : List Word} (h : p.length = q.length) : product F p q = mulSample F p q :=
  List.ext_getElem (by simp [product, mulSample, h]) fun i hp hq => by
    have hi : i < p.length ∧ i < q.length := by simpa [mulSample] using hq
    simp [product, mulSample, at', hi]

/-- The substitution from coefficient `i` on, where the running power is `k^i`. -/
theorem substFrom_power (F : GF) (k : Word) (p : List Word) (i : Nat) :
    substFrom F k (power F k i) p = (List.range p.length).map fun j => F.mul (at' p j) (power F k (i + j)) := by
  induction p generalizing i with
  | nil => rfl
  | cons c cs ih =>
    rw [substFrom, ← power, ih (i + 1), List.length_cons, List.range_succ_eq_map, List.map_cons, List.map_map]
    simp only [Nat.add_assoc, Nat.add_comm 1]
    rfl

theorem scale_eq_substitute (F : GF) (p : List Word) (k : Word) : scale F p k = substitute F p k := by
  have h := substFrom_power F k p 0
  simp only [Nat.zero_add] at h
  exact h.symm

/-! ## The degree (R191) -/

theorem coeffCount_cons (c : Word) (cs : List Word) :
    coeffCount (c :: cs) = if coeffCount cs = 0 then if c = 0#64 then 0 else 1 else coeffCount cs + 1 := by
  rw [coeffCount]
  split
  · next h => rw [h, if_pos rfl]
  · next k h => rw [h, if_neg k.succ_ne_zero]

theorem at'_of_coeffCount_le {p : List Word} {i : Nat} (h : coeffCount p ≤ i) : at' p i = 0#64 := by
  induction p generalizing i with
  | nil => rfl
  | cons c cs ih =>
    rw [coeffCount_cons] at h
    cases i with
    | zero =>
      by_contra hc
      have hc : ¬ c = 0#64 := hc
      rw [if_neg hc] at h
      split at h <;> omega
    | succ i =>
      refine ih ?_
      split at h <;> omega

theorem at'_coeffCount_ne_zero {p : List Word} {k : Nat} (h : coeffCount p = k + 1) : at' p k ≠ 0#64 := by
  induction p generalizing k with
  | nil => cases h
  | cons c cs ih =>
    rw [coeffCount_cons] at h
    split at h
    · split at h
      · cases h
      · next hc =>
        obtain rfl : k = 0 := by omega
        exact hc
    · obtain ⟨j, rfl⟩ : ∃ j, k = j + 1 := ⟨k - 1, by omega⟩
      exact ih (Nat.succ.inj h)

theorem isDegree_deg (p : List Word) : IsDegree p (deg p) := by
  cases h : coeffCount p with
  | zero => exact .inl ⟨by rw [deg, h]; rfl, fun i => at'_of_coeffCount_le (h ▸ i.zero_le)⟩
  | succ k =>
    refine .inr ⟨k, by rw [deg, h]; omega, at'_coeffCount_ne_zero h, fun i hi => at'_of_coeffCount_le (by omega)⟩

/-- The largest index of a nonzero coefficient is not below another such index. -/
theorem isDegree_le {p : List Word} {d d' : Int} (h : IsDegree p d) (h' : IsDegree p d') : d ≤ d' := by
  obtain ⟨rfl, -⟩ | ⟨k, rfl, hk, -⟩ := h
  · obtain ⟨rfl, -⟩ | ⟨k', rfl, -, -⟩ := h' <;> omega
  · obtain ⟨rfl, hz⟩ | ⟨k', rfl, -, hz⟩ := h'
    · exact absurd (hz k) hk
    · by_contra hlt
      exact hk (hz k (by omega))

theorem isDegree_iff {p : List Word} {d : Int} : IsDegree p d ↔ d = deg p :=
  ⟨fun h => le_antisymm (isDegree_le h (isDegree_deg p)) (isDegree_le (isDegree_deg p) h), fun h => h ▸ isDegree_deg p⟩

theorem isTrim_iff {p q : List Word} : IsTrim p q ↔ q = trim p := by
  simp only [IsTrim, isDegree_iff, exists_eq_left, deg, Int.sub_add_cancel, Int.toNat_natCast]
  rfl

end Sys2Proof.Machine

/-!
PROOFS. The schoolbook product as the product of polynomials over the residues of the field (44_poly.md R195): its values
(R193), its agreement with the product on the domain (R200), and the vanishing polynomial (R212).
-/

namespace Sys2Proof.Machine

open Reference Polynomial

/-! ## A list as a polynomial (R191) -/

/-- The polynomial whose coefficients are the residues of the entries. -/
noncomputable def GF.asPoly (F : GF) : List Word → (AdjoinRoot (toPoly F.poly))[X]
  | [] => 0
  | c :: cs => C (F.residue c) + X * F.asPoly cs

variable (F : GF)

theorem GF.coeff_asPoly (p : List Word) (i : Nat) : (F.asPoly p).coeff i = F.residue (at' p i) := by
  induction p generalizing i with
  | nil => simp [asPoly, at']
  | cons c cs ih =>
    cases i with
    | zero => simp [asPoly, at']
    | succ i => simp [asPoly, coeff_C_succ, ih, at'_cons_succ]

theorem GF.asPoly_append (p q : List Word) : F.asPoly (p ++ q) = F.asPoly p + X ^ p.length * F.asPoly q := by
  induction p with
  | nil => simp [asPoly]
  | cons c cs ih =>
    rw [List.cons_append, asPoly, ih, asPoly, List.length_cons]
    ring

theorem GF.asPoly_zeros (k : Nat) : F.asPoly (zeros k) = 0 := by
  induction k with
  | zero => rfl
  | succ k ih => rw [zeros, List.replicate_succ, asPoly, ← zeros, ih, residue_zero, C_0, mul_zero, add_zero]

theorem GF.asPoly_expand (p : List Word) (L : Nat) : F.asPoly (expand p L) = F.asPoly p := by
  rw [expand, asPoly_append, asPoly_zeros, mul_zero, add_zero]

theorem GF.asPoly_trim (p : List Word) : F.asPoly (trim p) = F.asPoly p := by
  ext i
  rw [coeff_asPoly, coeff_asPoly]
  rcases Nat.lt_or_ge i (coeffCount p) with hi | hi
  · rw [trim, at'_take hi]
  · rw [at'_of_coeffCount_le hi, at'_eq_zero (by rwa [length_trim])]

theorem GF.asPoly_addRow {row r : List Word} (h : row.length ≤ r.length) :
    F.asPoly (addRow row r) = F.asPoly row + F.asPoly r := by
  fun_induction addRow row r with
  | case1 r => rw [asPoly, zero_add]
  | case2 v vs => cases h
  | case3 v vs c cs ih =>
    rw [asPoly, ih (Nat.le_of_succ_le_succ h), asPoly, asPoly, residue_xor, C_add]
    ring

theorem length_fft (sub : List Word) {m : Nat} {p : List Word} (hp : p.length = 2 ^ m) : (fft F m sub p).length = 2 ^ m :=
  length_fftl F sub (length_radix hp)

theorem at'_mulSample {p q : List Word} {i : Nat} (hp : i < p.length) (hq : i < q.length) :
    at' (mulSample F p q) i = F.mul (at' p i) (at' q i) := by
  simp [mulSample, at', hp, hq]

section FieldOk

variable {F} (hF : FieldOk F)
include hF

theorem asPoly_map_mul {a : Word} (ha : IsElem F.n a) {q : List Word} (hq : Elems F.n q) :
    F.asPoly (q.map (F.mul a)) = C (F.residue a) * F.asPoly q := by
  induction q with
  | nil => exact (mul_zero _).symm
  | cons c cs ih =>
    obtain ⟨hc, hcs⟩ := elems_cons.mp hq
    rw [List.map_cons, GF.asPoly, ih hcs, hF.residue_mul ha hc, C_mul, GF.asPoly]
    ring

/-- A row of R195 adds `a x^i q(x)`. -/
theorem asPoly_convRow {a : Word} (ha : IsElem F.n a) {q r : List Word} (hq : Elems F.n q) {i : Nat}
    (hl : i + q.length ≤ r.length) :
    F.asPoly (convRow F q r (a, i)) = F.asPoly r + C (F.residue a) * X ^ i * F.asPoly q := by
  have hi : (r.take i).length = i := by rw [List.length_take]; omega
  have hr : F.asPoly r = F.asPoly (r.take i) + X ^ i * F.asPoly (r.drop i) := by
    conv_lhs => rw [← List.take_append_drop i r, F.asPoly_append, hi]
  rw [convRow, F.asPoly_append, hi, F.asPoly_addRow (by rw [List.length_map, List.length_drop]; omega),
    asPoly_map_mul hF ha hq, hr]
  ring

/-- The rows of R195 from index `i` on. -/
theorem asPoly_foldl_convRow {p q r : List Word} (hp : Elems F.n p) (hq : Elems F.n q) (i : Nat)
    (hl : i + p.length + q.length ≤ r.length + 1) :
    F.asPoly ((p.zipIdx i).foldl (convRow F q) r) = F.asPoly r + X ^ i * F.asPoly p * F.asPoly q := by
  induction p generalizing i r with
  | nil => simp [GF.asPoly]
  | cons c cs ih =>
    obtain ⟨hc, hcs⟩ := elems_cons.mp hp
    rw [List.length_cons] at hl
    rw [List.zipIdx_cons, List.foldl_cons, ih hcs (i + 1) (by rw [length_convRow]; omega),
      asPoly_convRow hF hc hq (by omega), GF.asPoly]
    ring

/-- The schoolbook product multiplies polynomials (R195). -/
theorem asPoly_mulNaivePoly {p q : List Word} (hp : Elems F.n p) (hq : Elems F.n q) :
    F.asPoly (mulNaivePoly F p q) = F.asPoly p * F.asPoly q := by
  unfold mulNaivePoly
  split
  · next h =>
    obtain rfl | rfl := h
    · exact (zero_mul _).symm
    · exact (mul_zero _).symm
  · rw [asPoly_foldl_convRow hF hp hq 0 (by rw [length_zeros]; omega), F.asPoly_zeros, zero_add, pow_zero, one_mul]

/-- Horner's rule gives the value of the polynomial (R193). -/
theorem residue_evalLoop {p : List Word} (hp : Elems F.n p) {x : Word} (hx : IsElem F.n x) :
    F.residue (evalLoop F p x) = (F.asPoly p).eval (F.residue x) := by
  induction p with
  | nil => simp [GF.asPoly, evalLoop, loopDown]
  | cons c cs ih =>
    obtain ⟨hc, hcs⟩ := elems_cons.mp hp
    rw [evalLoop_cons, F.residue_xor, hF.residue_mul (isElem_evalLoop hF hcs x) hx, ih hcs, GF.asPoly, eval_add, eval_mul,
      eval_C, eval_X]
    ring

/-! ## The vanishing polynomial (R212) -/

/-- The linear factors multiplied one after the other, from any polynomial on. -/
theorem asPoly_foldl_factors {roots z : List Word} (hroots : Elems F.n roots) (hz : Elems F.n z) :
    F.asPoly (roots.foldl (fun z x => mulNaivePoly F z [x, 1#64]) z) =
      F.asPoly z * (roots.map fun x => X + C (F.residue x)).prod := by
  induction roots generalizing z with
  | nil => simp
  | cons x roots ih =>
    obtain ⟨hx, hroots⟩ := elems_cons.mp hroots
    have hfactor : Elems F.n [x, 1#64] := by simp [hx, IsElem.one hF.width.1]
    rw [List.foldl_cons, ih hroots (elems_mulNaivePoly hF hz _), asPoly_mulNaivePoly hF hz hfactor, List.map_cons, List.prod_cons]
    simp only [GF.asPoly, GF.residue_one, C_1]
    ring

theorem asPoly_zpoly {roots : List Word} (hroots : Elems F.n roots) :
    F.asPoly (zpoly F roots) = (roots.map fun x => X + C (F.residue x)).prod := by
  rw [zpoly, asPoly_foldl_factors hF hroots (by simp [IsElem.one hF.width.1])]
  simp [GF.asPoly]

/-- The coefficient of the highest power is the product of those of the factors. -/
theorem at'_zpoly_length {roots : List Word} (hroots : Elems F.n roots) : at' (zpoly F roots) roots.length = 1#64 := by
  have hdegree : ∀ f ∈ roots.map fun x => X + C (F.residue x), f.natDegree ≤ 1 := by
    simp only [List.forall_mem_map]
    intro x _
    compute_degree
  have hcoeff := coeff_list_prod_of_natDegree_le _ 1 hdegree
  rw [List.length_map, mul_one, ← asPoly_zpoly hF hroots, GF.coeff_asPoly] at hcoeff
  refine hF.eq_of_residue_eq ((elems_zpoly hF roots).getD _) (.one hF.width.1) (hcoeff.trans ?_)
  rw [List.map_map, F.residue_one]
  refine List.prod_eq_one ?_
  simp

/-- At a root the factor of that root vanishes. -/
theorem evalLoop_zpoly {roots : List Word} (hroots : Elems F.n roots) {x : Word} (hx : x ∈ roots) :
    evalLoop F (zpoly F roots) x = 0#64 := by
  have helems := elems_zpoly hF roots
  rw [← hF.residue_eq_zero_iff (isElem_evalLoop hF helems x), residue_evalLoop hF helems (hroots x hx), asPoly_zpoly hF hroots,
    eval_list_prod, List.map_map]
  refine List.prod_eq_zero (List.mem_map.mpr ⟨x, hx, ?_⟩)
  rw [Function.comp_apply, eval_add, eval_X, eval_C, ← F.residue_xor, BitVec.xor_self, F.residue_zero]

/-! ## The product on the domain (R199, R200) -/

section Domain

variable {m : Nat} (hm : 1 ≤ m) {comb sub : List Word} (hpoints : F.Points m comb sub) (hcomb : Elems F.n comb)
  (hsub : Elems F.n sub)
include hm hpoints hcomb hsub

/-- A product that fits the domain has the product of the samples as its samples. -/
theorem fft_eq_mulSample {p q r : List Word} (hp : Elems F.n p) (hq : Elems F.n q) (hr : Elems F.n r) (hpl : p.length = 2 ^ m)
    (hql : q.length = 2 ^ m) (hrl : r.length = 2 ^ m) (hprod : F.asPoly r = F.asPoly p * F.asPoly q) :
    fft F m sub r = mulSample F (fft F m sub p) (fft F m sub q) := by
  have hlp := length_fft F sub hpl
  have hlq := length_fft F sub hql
  have hsample {p : List Word} (hp : Elems F.n p) (hpl : p.length = 2 ^ m) {e : Nat} (he : e < 2 ^ m) :
      IsElem F.n (at' (fft F m sub p) e) ∧ F.residue (at' (fft F m sub p) e) = (F.asPoly p).eval (F.residue (at' comb e)) := by
    rw [at'_fft hF hm hpoints hcomb hsub hpl hp he]
    exact ⟨isElem_evalLoop hF hp _, residue_evalLoop hF hp (hcomb.getD e)⟩
  refine ext_at' (by rw [length_fft F sub hrl, mulSample, List.length_zipWith, hlp, hlq, Nat.min_self]) fun e he => ?_
  rw [length_fft F sub hrl] at he
  obtain ⟨hpe, hpv⟩ := hsample hp hpl he
  obtain ⟨hqe, hqv⟩ := hsample hq hql he
  obtain ⟨hre, hrv⟩ := hsample hr hrl he
  rw [at'_mulSample F (hlp.symm ▸ he) (hlq.symm ▸ he)]
  refine hF.eq_of_residue_eq hre (hF.mul hpe _) ?_
  rw [hF.residue_mul hpe hqe, hrv, hpv, hqv, hprod, eval_mul]

/-- The transform product is the schoolbook product where it fits the domain (R200). -/
theorem pmul_eq_expand_mulNaivePoly {p q : List Word} (hp : Elems F.n p) (hq : Elems F.n q) (hpl : p.length ≤ 2 ^ m)
    (hql : q.length ≤ 2 ^ m) (hfit : coeffCount p + coeffCount q ≤ 2 ^ m + 1) :
    pmul F m sub p q = expand (mulNaivePoly F (trim p) (trim q)) (2 ^ m) := by
  have hl : (mulNaivePoly F (trim p) (trim q)).length ≤ 2 ^ m := by
    rw [length_mulNaivePoly, length_trim, length_trim, naiveLength]
    split <;> omega
  have hprod : F.asPoly (expand (mulNaivePoly F (trim p) (trim q)) (2 ^ m)) =
      F.asPoly (expand p (2 ^ m)) * F.asPoly (expand q (2 ^ m)) := by
    rw [F.asPoly_expand, F.asPoly_expand, F.asPoly_expand, asPoly_mulNaivePoly hF hp.trim hq.trim, F.asPoly_trim, F.asPoly_trim]
  rw [pmul, ← fft_eq_mulSample hF hm hpoints hcomb hsub (hp.expand _) (hq.expand _)
    ((elems_mulNaivePoly hF hp.trim _).expand _) (length_expand p hpl) (length_expand q hql) (length_expand _ hl) hprod,
    ifft_fft F hm sub (length_expand _ hl)]

end Domain

end FieldOk

end Sys2Proof.Machine

/-!
PROOFS. The commands of the Polynomial Engine (44_poly.md): the words they assemble to, their checks in order (R196, R198, R201,
R211, R213) and their results by the loops of the rules.
-/

namespace Sys2Proof

open Laws Reference

/-- A row that builds its command from three buffer numbers. -/
theorem assembles_of_buffers (op : BitVec 8) (build : PReg → PReg → PReg → Instr) {d a b : PReg} {r : Row} (hr : r ∈ rows)
    (hfits : EncodingFits.Statement (build d a b)) (ho : op = r.opcode)
    (hi : encode (build d a b) = pack op (ofPReg d) (ofPReg a) (ofPReg b) 0 0)
    (hb : ∀ f, r.build f = build (toPReg f.d) (toPReg f.a) (toPReg f.b)) (hwf : (build d a b).wellFormed = true) :
    Assembles (build d a b) op.toNat d.val a.val b.val 0 0 :=
  assembles_of_row op (ofPReg d) (ofPReg a) (ofPReg b) 0 0 hr hfits hi ho
    ((hb _).trans (by rw [toPReg_ofPReg, toPReg_ofPReg, toPReg_ofPReg])) hwf

theorem assembles_pmuln (d a b : PReg) : Assembles (.pmuln d a b) 0x51 d.val a.val b.val 0 0 :=
  assembles_of_buffers 0x51#8 .pmuln (row_mem 21 (by decide)) (EncodingFits.pmuln d a b) rfl rfl (fun _ => rfl) rfl

theorem assembles_pmul (d a b : PReg) : Assembles (.pmul d a b) 0x52 d.val a.val b.val 0 0 :=
  assembles_of_buffers 0x52#8 .pmul (row_mem 22 (by decide)) (EncodingFits.pmul d a b) rfl rfl (fun _ => rfl) rfl

theorem assembles_muls (d a b : PReg) : Assembles (.muls d a b) 0x53 d.val a.val b.val 0 0 :=
  assembles_of_buffers 0x53#8 .muls (row_mem 23 (by decide)) (EncodingFits.muls d a b) rfl rfl (fun _ => rfl) rfl

theorem assembles_pdiv (d a b : PReg) : Assembles (.pdiv d a b) 0x56 d.val a.val b.val 0 0 :=
  assembles_of_buffers 0x56#8 .pdiv (row_mem 26 (by decide)) (EncodingFits.pdiv d a b) rfl rfl (fun _ => rfl) rfl

theorem assembles_eval (d : EReg) (a : PReg) (b : EReg) : Assembles (.eval d a b) 0x50 d.val a.val b.val 0 0 :=
  assembles_of_row 0x50#8 (ofEReg d) (ofPReg a) (ofEReg b) 0 0 (row_mem 20 (by decide)) (EncodingFits.eval d a b) rfl rfl
    (congrArg (Instr.eval d · b) (toPReg_ofPReg a)) rfl

theorem assembles_subst (d : PReg) (a : EReg) : Assembles (.subst d a) 0x54 d.val a.val 0 0 0 :=
  assembles_of_row 0x54#8 (ofPReg d) (ofEReg a) 0 0 0 (row_mem 24 (by decide)) (EncodingFits.subst d a) rfl rfl
    (congrArg (Instr.subst · a) (toPReg_ofPReg d)) rfl

theorem assembles_invs (d : PReg) : Assembles (.invs d) 0x55 d.val 0 0 0 0 :=
  assembles_of_row 0x55#8 (ofPReg d) 0 0 0 0 (row_mem 25 (by decide)) (EncodingFits.invs d) rfl rfl
    (congrArg Instr.invs (toPReg_ofPReg d)) rfl

theorem assembles_zpoly (d a : PReg) : Assembles (.zpoly d a) 0x57 d.val a.val 0 0 0 :=
  assembles_of_row 0x57#8 (ofPReg d) (ofPReg a) 0 0 0 (row_mem 27 (by decide)) (EncodingFits.zpoly d a) rfl rfl
    (congr (congrArg Instr.zpoly (toPReg_ofPReg d)) (toPReg_ofPReg a)) rfl

end Sys2Proof

namespace Sys2Proof.Machine

open Reference

/-! ## The products on the domain as their rules write them (R199, R210) -/

section Domain

variable (F : GF) {m : Nat} (hm : 1 ≤ m) {sub : List Word} (hsub : sub.length = 2 ^ (m - 1))
include hm hsub

/-- `pad` is `expand` (R191), and the loops are the transform (R171, R173). -/
theorem fftLoops_pad {p : List Word} (hp : p.length ≤ 2 ^ m) :
    fftLoops F m sub (pad p (2 ^ m)) = fft F m sub (expand p (2 ^ m)) :=
  fftLoops_eq_fft F hm (length_expand p hp) hsub

theorem ifftLoops_product {p q : List Word} (hp : p.length = 2 ^ m) (hq : q.length = 2 ^ m) :
    ifftLoops F m sub (product F p q) = ifft F m sub (mulSample F p q) := by
  rw [product_eq_mulSample F (hp.trans hq.symm), ifftLoops_eq_ifft F hm (by simp [mulSample, hp, hq]) hsub]

variable {p q : List Word} (hp : p.length ≤ 2 ^ m) (hq : q.length ≤ 2 ^ m)
include hp hq

theorem pmulLoops_eq_pmul : pmulLoops F m sub p q = pmul F m sub p q := by
  rw [pmulLoops, fftLoops_pad F hm hsub hp, fftLoops_pad F hm hsub hq,
    ifftLoops_product F hm hsub (length_fft F sub (length_expand p hp)) (length_fft F sub (length_expand q hq)), pmul]

/-- The divisor's samples are elements, so the batch inverter inverts them one by one (R209). -/
theorem pdivLoops_eq_pdiv [Fact (Irreducible (toPoly F.poly))] (hF : FieldOk F) (hn : 2 ≤ F.n) (hsubElems : Elems F.n sub)
    (hqElems : Elems F.n q) : pdivLoops F m sub p q = pdiv F m sub p q := by
  have hsamples : Elems F.n (fft F m sub (expand q (2 ^ m))) := (fft_keeps hF m hsubElems _ (hqElems.expand _)).1
  have hlen : (invSample F (fft F m sub (expand q (2 ^ m)))).length = 2 ^ m :=
    (length_invPasses ..).trans (length_fft F sub (length_expand q hq))
  rw [pdivLoops, fftLoops_pad F hm hsub hp, fftLoops_pad F hm hsub hq, ← hF.invSample_eq_map hn hsamples,
    ifftLoops_product F hm hsub (length_fft F sub (length_expand p hp)) hlen, pdiv]

end Domain

/-! ## A divisor of zeros (R211) -/

theorem at'_zeros (k i : Nat) : at' (zeros k) i = 0#64 := by
  rw [at', List.getD_eq_getElem?_getD]
  exact List.getElem?_getD_replicate_default_eq _ _ i

theorem invSample_zeros (F : GF) (k : Nat) : invSample F (zeros k) = zeros k := by
  rw [invSample]
  induction k with
  | zero => rfl
  | succ k ih => exact congrArg (List.cons 0#64) ih

theorem mulSample_zeros (F : GF) {p : List Word} {k : Nat} (hp : p.length = k) : mulSample F p (zeros k) = zeros k := by
  refine ext_at' (by simp [mulSample, hp]) fun i hi => ?_
  rw [mulSample, List.length_zipWith, Nat.lt_min] at hi
  rw [at'_mulSample F hi.1 hi.2, at'_zeros, F.mul_zero_right]

theorem fft_zeros {F : GF} (hF : FieldOk F) {m : Nat} (hm : 1 ≤ m) {comb sub : List Word} (hpoints : F.Points m comb sub)
    (hcomb : Elems F.n comb) (hsub : Elems F.n sub) : fft F m sub (zeros (2 ^ m)) = zeros (2 ^ m) := by
  have hl := length_zeros (2 ^ m)
  have helems := elems_zeros F.n (2 ^ m)
  refine ext_at' ((length_fft F sub hl).trans hl.symm) fun e he => ?_
  rw [length_fft F sub hl] at he
  rw [at'_fft hF hm hpoints hcomb hsub hl helems he, at'_zeros, ← hF.residue_eq_zero_iff (isElem_evalLoop hF helems _)]
  rw [at', residue_evalLoop hF helems (hcomb.getD e), F.asPoly_zeros, Polynomial.eval_zero]

theorem pdiv_of_zeros {F : GF} (hF : FieldOk F) {m : Nat} (hm : 1 ≤ m) {comb sub : List Word} (hpoints : F.Points m comb sub)
    (hcomb : Elems F.n comb) (hsub : Elems F.n sub) {p q : List Word} (hp : p.length ≤ 2 ^ m) (hq : q.length ≤ 2 ^ m)
    (hzero : ∀ w ∈ q, w = 0#64) : pdiv F m sub p q = zeros (2 ^ m) := by
  have hexpand : expand q (2 ^ m) = zeros (2 ^ m) :=
    List.eq_replicate_iff.mpr ⟨length_expand q hq, fun w hw => (List.mem_append.mp hw).elim (hzero w) List.eq_of_mem_replicate⟩
  have hfft := fft_zeros hF hm hpoints hcomb hsub
  have hback := ifft_fft F hm sub (length_zeros (2 ^ m))
  rw [hfft] at hback
  rw [pdiv, hexpand, hfft, invSample_zeros, mulSample_zeros F (length_fft F sub (length_expand p hp)), hback]

theorem rootProduct_eq_zpoly (F : GF) (roots : List Word) : rootProduct F roots = zpoly F roots := by
  simp only [rootProduct, zpoly, convLoops_eq_mulNaivePoly]

theorem naiveLength_of_ne_zero {la lb : Nat} (ha : la ≠ 0) (hb : lb ≠ 0) : naiveLength la lb = la + lb - 1 :=
  if_neg (not_or.mpr ⟨ha, hb⟩)

/-! ## Commands that write one buffer or fail -/

/-- A command that writes one buffer, the list computed from the state before it. -/
theorem bufferResult {i : Instr} {d : PReg} {ok : State → Prop} {value : State → List Word}
    (h : ∀ s, ok s → exec i s = finish (s.setBuf d (value s))) : BufferResult i d ok value := fun s hs =>
  ⟨_, h s hs, s.setBuf_buf_self d _, .setBuf s d _, rfl, rfl, rfl⟩

/-- A command that raises an error leaves the state that `Fails` asks for (R262). -/
theorem fails {i : Instr} {cond : State → Prop} {sub : BitVec 8} {val : State → Nat} (k : ErrKind)
    (h : ∀ s, cond s → exec i s = raise (encode i) k sub (val s) s) : Fails i cond k.code sub val := h

/-- The checks that PMUL and PDIV share: a basis, and both operands within the domain (R201, R211). -/
def operandChecks (w : Word) (a b : PReg) (s : State) (k : Result) : Result :=
  if s.basisM = 0 then raise w .noBasis 0#8 0 s
  else if s.domain < s.len a then raise w .length 3#8 (s.len a) s
  else if s.domain < s.len b then raise w .length 3#8 (s.len b) s
  else k

section Operands

variable {i : Instr} {a b : PReg} {k : State → Result} (h : ∀ s, exec i s = operandChecks (encode i) a b s (k s))
include h

/-- The three checks in order. -/
theorem fails_operandChecks : Fails i (fun s => s.basisM = 0) 0x11 0 (fun _ => 0) ∧
    Fails i (fun s => s.basisM ≠ 0 ∧ 2 ^ s.basisM < s.len a) 0x02 3 (fun s => s.len a) ∧
    Fails i (fun s => s.basisM ≠ 0 ∧ s.len a ≤ 2 ^ s.basisM ∧ 2 ^ s.basisM < s.len b) 0x02 3 (fun s => s.len b) :=
  ⟨fails .noBasis fun s hb => (h s).trans (if_pos hb),
    fails .length fun s ⟨hb, ha⟩ => (h s).trans ((if_neg hb).trans (if_pos ha)),
    fails .length fun s ⟨hb, ha, hl⟩ => (h s).trans ((if_neg hb).trans ((if_neg ha.not_gt).trans (if_pos hl)))⟩

theorem exec_of_operands {s : State} (hb : s.basisM ≠ 0) (ha : s.len a ≤ s.domain) (hl : s.len b ≤ s.domain) :
    exec i s = k s :=
  (h s).trans ((if_neg hb).trans ((if_neg ha.not_gt).trans (if_neg hl.not_gt)))

end Operands

theorem exec_pmul (d a b : PReg) (s : State) : exec (.pmul d a b) s = operandChecks (encode (.pmul d a b)) a b s
    (if (s.domain : Int) < deg (s.buf a) + deg (s.buf b) + 1 then
      raise (encode (.pmul d a b)) .length 4#8 (deg (s.buf a) + deg (s.buf b) + 1).toNat s
    else finish (s.setBuf d (pmul s.field s.basisM s.sub (s.buf a) (s.buf b)))) := rfl

theorem exec_pdiv (d a b : PReg) (s : State) : exec (.pdiv d a b) s = operandChecks (encode (.pdiv d a b)) a b s
    (finish (s.setBuf d (pdiv s.field s.basisM s.sub (s.buf a) (s.buf b)))) := rfl

theorem State.domain_cast (s : State) : (s.domain : Int) = 2 ^ s.basisM := Nat.cast_pow 2 s.basisM

theorem State.HasBasis.one_le_basisM {s : State} (hs : s.HasBasis) : 1 ≤ s.basisM := Nat.one_le_iff_ne_zero.mpr hs.1

end Sys2Proof.Machine

namespace Sys2Proof.Proofs

open Sys2Proof.Machine Sys2Proof.Reference

/-- Settles O47: the backward pass carries the inverse of the product before each entry, in the field of the irreducible
polynomial (R207, R209). -/
theorem batchInversionIsElementwise : Obligations.BatchInversionIsElementwise := by
  refine ⟨fun d => ⟨assembles_invs d, bufferResult fun s ⟨hirr, helems⟩ => ?_⟩, fun P W p hirr hp => ?_⟩
  · have hfact : Fact (Irreducible (toPoly s.field.poly)) := ⟨s.fieldOk.irreducible_toPoly hirr⟩
    rw [← s.fieldOk.invSample_eq_map s.two_le_field_n helems]
    rfl
  · have hF := P.fieldOk W
    have hn := P.two_le_field_n W
    have hfact : Fact (Irreducible (toPoly (P.field W).poly)) := ⟨hF.irreducible_toPoly hirr⟩
    rw [← P.field_n W] at hp
    have hinv : Elems (P.field W).n (p.map (P.field W).inv) := .map fun w hw => hF.inv (hp w hw)
    rw [hF.invSample_eq_map hn hp, hF.invSample_eq_map hn hinv, List.map_map]
    refine ⟨rfl, (List.map_congr_left fun w hw => hF.inv_of_inv hn (hp w hw)).trans p.map_id, fun i _ h0 => ?_,
      fun i h0 => ?_⟩
    · rw [hF.at'_map_inv hn]
      exact hF.mul_inv_self hn (Elems.getD hp i) h0
    · rw [hF.at'_map_inv hn, h0, hF.inv_zero hn]

/-- Settles O49: both sides have the same samples on the domain, and the transform has an inverse (R179, R200). -/
theorem transformProductIsTheProduct : Obligations.TransformProductIsTheProduct := by
  intro s p q p' q' hs hp hq hpl hql hp' hq' hfit
  obtain rfl := isTrim_iff.mp hp'
  obtain rfl := isTrim_iff.mp hq'
  rw [length_trim, length_trim] at hfit
  rw [convLoops_eq_mulNaivePoly]
  exact pmul_eq_expand_mulNaivePoly s.fieldOk hs.one_le_basisM hs.points hs.elems_comb hs.elems_sub hp hq hpl hql hfit

/-- Settles O52: the checks in order, and the result as a product of monic linear factors (R212, R213). -/
theorem vanishingPolynomialCommand : Obligations.VanishingPolynomialCommand := by
  refine ⟨fun d a => ⟨assembles_zpoly d a, fails .noBasis fun s hb => if_pos hb,
    fails .roots fun s ⟨hb, hroots⟩ => (if_neg hb).trans (if_pos hroots),
    fails .length fun s ⟨hb, h0, heven, hl⟩ => (if_neg hb).trans ((if_neg (by omega)).trans (if_pos hl)),
    bufferResult fun s ⟨hb, h0, heven, hl⟩ => ?_⟩, fun F roots hF hroots => ?_⟩
  · rw [rootProduct_eq_zpoly]
    exact (if_neg hb).trans ((if_neg (by omega)).trans (if_neg hl.not_gt))
  · rw [rootProduct_eq_zpoly]
    exact ⟨length_zpoly F roots, at'_zpoly_length hF hroots, fun x hx => evalLoop_zpoly hF hroots hx⟩

/-- Settles O44: Horner's rule, which at 0 keeps the last coefficient added and at 1 adds them all (R194). -/
theorem evaluationCommand : Obligations.EvaluationCommand := by
  refine ⟨fun d a b => ⟨assembles_eval d a b, scalarResult fun s => ?_⟩, fun _ _ => rfl, evalLoop_zero,
    fun _ _ hF hp => evalLoop_one hF hp⟩
  rw [evalLoop_eq_evalPoly, ← State.readE_eq_reg]
  rfl

/-- Settles O45: the capacity check, and the schoolbook product, which is the loops of R195 (R196). -/
theorem schoolbookProductCommand : Obligations.SchoolbookProductCommand := by
  refine fun d a b => ⟨assembles_pmuln d a b, fails .capacity fun s ⟨ha, hb, hl⟩ => ?_, bufferResult fun s hempty => ?_,
    bufferResult fun s ⟨ha, hb, hl⟩ => ?_, fun F p q hp hq => ?_⟩
  · rw [← naiveLength_of_ne_zero ha hb] at hl ⊢
    exact if_pos hl
  · have hlen : naiveLength (s.len a) (s.len b) = 0 := if_pos hempty
    have hprod : mulNaivePoly s.field (s.buf a) (s.buf b) = [] :=
      List.length_eq_zero_iff.mp ((length_mulNaivePoly ..).trans hlen)
    rw [← hprod]
    exact if_neg (by rw [hlen]; exact Nat.not_lt_zero _)
  · rw [← naiveLength_of_ne_zero ha hb] at hl
    rw [convLoops_eq_mulNaivePoly]
    exact if_neg hl.not_gt
  · rw [convLoops_eq_mulNaivePoly, length_mulNaivePoly,
      naiveLength_of_ne_zero (List.length_eq_zero_iff.not.mpr hp) (List.length_eq_zero_iff.not.mpr hq)]

/-- Settles O46: the length check and the two entrywise results (R198, R206). -/
theorem elementwiseProductAndSubstitution : Obligations.ElementwiseProductAndSubstitution := by
  refine ⟨fun d a b => ⟨assembles_muls d a b, fails .sample fun s hl => if_pos hl, bufferResult fun s hl => ?_⟩,
    fun d a => ⟨assembles_subst d a, bufferResult fun s _ => ?_⟩⟩
  · rw [product_eq_mulSample s.field hl]
    exact if_neg (not_not.mpr hl)
  · rw [scale_eq_substitute, ← State.readE_eq_reg]
    rfl

/-- Settles O48: the checks of the operands, the check of the degrees, and the product on the domain in loops (R199, R201). -/
theorem transformProductCommand : Obligations.TransformProductCommand := by
  intro d a b
  obtain ⟨hbasis, hfirst, hsecond⟩ := fails_operandChecks (exec_pmul d a b)
  refine ⟨assembles_pmul d a b, hbasis, hfirst, hsecond, fun da db =>
    ⟨fails .length fun s ⟨hb, ha, hl, hda, hdb, hneed⟩ => ?_, bufferResult fun s ⟨hb, hsub, ha, hl, hda, hdb, hneed⟩ => ?_⟩⟩
  · rw [← s.domain_cast, isDegree_iff.mp hda, isDegree_iff.mp hdb] at hneed
    rw [exec_of_operands (exec_pmul d a b) hb ha hl, if_pos hneed, isDegree_iff.mp hda, isDegree_iff.mp hdb]
    rfl
  · rw [← s.domain_cast, isDegree_iff.mp hda, isDegree_iff.mp hdb] at hneed
    rw [exec_of_operands (exec_pmul d a b) hb ha hl, if_neg hneed.not_gt,
      pmulLoops_eq_pmul s.field (Nat.one_le_iff_ne_zero.mpr hb) hsub ha hl]

/-- Settles O50: the checks of the operands, and the quotient on the domain in loops; the samples of a zero divisor are zeros,
and so are their inverses (R210, R211). -/
theorem perfectDivisionCommand : Obligations.PerfectDivisionCommand := by
  intro d a b
  obtain ⟨hbasis, hfirst, hsecond⟩ := fails_operandChecks (exec_pdiv d a b)
  refine ⟨assembles_pdiv d a b, hbasis, hfirst, hsecond, bufferResult fun s ⟨hirr, hs, hq, ha, hl⟩ => ?_,
    bufferResult fun s ⟨hs, ha, hl, hzero⟩ => ?_⟩
  · have hfact : Fact (Irreducible (toPoly s.field.poly)) := ⟨s.fieldOk.irreducible_toPoly hirr⟩
    rw [exec_of_operands (exec_pdiv d a b) hs.1 ha hl, pdivLoops_eq_pdiv s.field hs.one_le_basisM hs.points.subLength ha hl
      s.fieldOk s.two_le_field_n hs.elems_sub hq]
  · rw [exec_of_operands (exec_pdiv d a b) hs.1 ha hl, pdiv_of_zeros s.fieldOk hs.one_le_basisM hs.points hs.elems_comb
      hs.elems_sub ha hl hzero, zeros]

end Sys2Proof.Proofs

/-!
PROOFS. The recovery of R224 as polynomials over the residues of the field: a list is determined by its samples on the domain
(43_fft.md R176, R179), the perfect division divides samples (44_poly.md R210), and the quotient of RECOVER is the data exactly
where the degree check passes (45_erasure.md R228, R229, R232).
-/

namespace Sys2Proof.Machine

open Reference Polynomial

theorem length_ifft (F : GF) (sub : List Word) {m : Nat} {p : List Word} (hp : p.length = 2 ^ m) :
    (ifft F m sub p).length = 2 ^ m :=
  length_foldl_sweep (fun _ _ => length_iradixBlock) (fun _ hi => mem_radixSweeps (List.mem_reverse.mp hi))
    (length_ifftl F sub hp)

theorem Elems.isElem_at' {n : Nat} {p : List Word} (hp : Elems n p) (i : Nat) : IsElem n (at' p i) := hp.getD i

theorem length_mulSample (F : GF) {m : Nat} {p q : List Word} (hp : p.length = 2 ^ m) (hq : q.length = 2 ^ m) :
    (mulSample F p q).length = 2 ^ m := by simp [mulSample, hp, hq]

section FieldOk

variable {F : GF} (hF : FieldOk F)
include hF

/-! ## A list from its polynomial -/

theorem eq_of_asPoly_eq {p q : List Word} (hp : Elems F.n p) (hq : Elems F.n q) (hl : p.length = q.length)
    (h : F.asPoly p = F.asPoly q) : p = q :=
  ext_at' hl fun i _ => hF.eq_of_residue_eq (hp.isElem_at' i) (hq.isElem_at' i) (by
    rw [← F.coeff_asPoly, h, F.coeff_asPoly])

theorem coeffCount_le_of_asPoly_eq {p q : List Word} (hp : Elems F.n p) (h : F.asPoly p = F.asPoly q) :
    coeffCount p ≤ q.length := by
  by_contra hlt
  obtain ⟨k, hk⟩ : ∃ k, coeffCount p = k + 1 := ⟨coeffCount p - 1, by omega⟩
  refine at'_coeffCount_ne_zero hk ((hF.residue_eq_zero_iff (hp.isElem_at' k)).mp ?_)
  rw [← F.coeff_asPoly, h, F.coeff_asPoly, at'_eq_zero (by omega), F.residue_zero]

/-! ## The substitution (R204) -/

theorem asPoly_substFrom {k acc : Word} (hk : IsElem F.n k) (hacc : IsElem F.n acc) {p : List Word} (hp : Elems F.n p) :
    F.asPoly (substFrom F k acc p) = C (F.residue acc) * (F.asPoly p).comp (C (F.residue k) * X) := by
  induction p generalizing acc with
  | nil => simp [substFrom, GF.asPoly]
  | cons c cs ih =>
    obtain ⟨hc, hcs⟩ := elems_cons.mp hp
    rw [substFrom, GF.asPoly, ih (hF.mul hacc k) hcs, hF.residue_mul hc hacc, hF.residue_mul hacc hk, GF.asPoly, add_comp,
      mul_comp, C_comp, X_comp, C_mul, C_mul]
    ring

theorem elems_substitute {p : List Word} (hp : Elems F.n p) (k : Word) : Elems F.n (substitute F p k) :=
  elems_substFrom hF hp k _

/-- The substitution of R204 is the polynomial at `kx`. -/
theorem asPoly_substitute {k : Word} (hk : IsElem F.n k) {p : List Word} (hp : Elems F.n p) :
    F.asPoly (substitute F p k) = (F.asPoly p).comp (C (F.residue k) * X) := by
  rw [substitute, asPoly_substFrom hF hk (.one hF.width.1) hp, F.residue_one, C_1, one_mul]

/-! ## A list from its samples (R176, R179) -/

section Domain

variable {m : Nat} (hm : 1 ≤ m) {comb sub : List Word} (hpoints : F.Points m comb sub) (hcomb : Elems F.n comb)
  (hsub : Elems F.n sub)
include hm hpoints hcomb hsub

theorem residue_at'_fft_expand {p : List Word} (hp : Elems F.n p) (hl : p.length ≤ 2 ^ m) {e : Nat} (he : e < 2 ^ m) :
    F.residue (at' (fft F m sub (expand p (2 ^ m))) e) = (F.asPoly p).eval (F.residue (at' comb e)) := by
  rw [at'_fft hF hm hpoints hcomb hsub (length_expand p hl) (hp.expand _) he,
    residue_evalLoop hF (hp.expand _) (hcomb.isElem_at' e), F.asPoly_expand]

/-- The inverse transform gives the polynomial with the given samples. -/
theorem eval_asPoly_ifft {p : List Word} (hp : Elems F.n p) (hl : p.length = 2 ^ m) {e : Nat} (he : e < 2 ^ m) :
    (F.asPoly (ifft F m sub p)).eval (F.residue (at' comb e)) = F.residue (at' p e) := by
  have helems := (ifft_keeps hF m hsub p hp).1
  have hfft := at'_fft hF hm hpoints hcomb hsub (length_ifft F sub hl) helems he
  rw [fft_ifft F hm sub hl] at hfft
  rw [hfft, residue_evalLoop hF helems (hcomb.isElem_at' e)]

/-- Two lists that fit the domain and have the same samples are one polynomial, since the transform has an inverse. -/
theorem asPoly_eq_of_eval {p q : List Word} (hp : Elems F.n p) (hq : Elems F.n q) (hpl : p.length ≤ 2 ^ m)
    (hql : q.length ≤ 2 ^ m) (h : ∀ e, e < 2 ^ m →
      (F.asPoly p).eval (F.residue (at' comb e)) = (F.asPoly q).eval (F.residue (at' comb e))) : F.asPoly p = F.asPoly q := by
  have hlp := length_expand p hpl
  have hlq := length_expand q hql
  have hfft : fft F m sub (expand p (2 ^ m)) = fft F m sub (expand q (2 ^ m)) := by
    refine ext_at' ((length_fft F sub hlp).trans (length_fft F sub hlq).symm) fun e he => ?_
    rw [length_fft F sub hlp] at he
    refine hF.eq_of_residue_eq ((fft_keeps hF m hsub _ (hp.expand _)).1.isElem_at' e)
      ((fft_keeps hF m hsub _ (hq.expand _)).1.isElem_at' e) ?_
    rw [residue_at'_fft_expand hF hm hpoints hcomb hsub hp hpl he,
      residue_at'_fft_expand hF hm hpoints hcomb hsub hq hql he, h e he]
  rw [← F.asPoly_expand p (2 ^ m), ← ifft_fft F hm sub hlp, hfft, ifft_fft F hm sub hlq, F.asPoly_expand]

/-- Steps 3 to 5 of R224: the samples of `p` times a list that holds those of `q`, or 0 at roots of `p`, are the samples of the
product, where it fits the domain. -/
theorem asPoly_ifft_mulSample {p q cw : List Word} (hp : Elems F.n p) (hq : Elems F.n q) (hpl : p.length ≤ 2 ^ m)
    (hcwl : cw.length = 2 ^ m) (hfit : p.length + q.length ≤ 2 ^ m + 1) (hcw : ∀ e, e < 2 ^ m →
      at' cw e = evalLoop F q (at' comb e) ∨ at' cw e = 0#64 ∧ (F.asPoly p).eval (F.residue (at' comb e)) = 0) :
    F.asPoly (ifft F m sub (mulSample F (fft F m sub (expand p (2 ^ m))) cw)) = F.asPoly p * F.asPoly q := by
  have hlp := length_fft F sub (length_expand p hpl)
  have hlsamples := length_mulSample F hlp hcwl
  have hps := (fft_keeps hF m hsub _ (hp.expand (2 ^ m))).1
  have hsamples : Elems F.n (mulSample F (fft F m sub (expand p (2 ^ m))) cw) := (mulSample_keeps hF cw _ hps).1
  have hlmul : (mulNaivePoly F p q).length ≤ 2 ^ m := by
    rw [length_mulNaivePoly, naiveLength]
    split <;> omega
  rw [← asPoly_mulNaivePoly hF hp hq]
  refine asPoly_eq_of_eval hF hm hpoints hcomb hsub (ifft_keeps hF m hsub _ hsamples).1 (elems_mulNaivePoly hF hp q)
    (length_ifft F sub hlsamples).le hlmul fun e he => ?_
  rw [eval_asPoly_ifft hF hm hpoints hcomb hsub hsamples hlsamples he,
    at'_mulSample F (he.trans_eq hlp.symm) (he.trans_eq hcwl.symm), asPoly_mulNaivePoly hF hp hq, eval_mul]
  rcases hcw e he with hright | ⟨herased, hroot⟩
  · rw [hright, hF.residue_mul (hps.isElem_at' e) (isElem_evalLoop hF hq _),
      residue_at'_fft_expand hF hm hpoints hcomb hsub hp hpl he, residue_evalLoop hF hq (hcomb.isElem_at' e)]
  · rw [herased, F.mul_zero_right, F.residue_zero, hroot, zero_mul]

/-! ## The perfect division (R210) -/

section Division

variable [Fact (Irreducible (toPoly F.poly))] (hn : 2 ≤ F.n) {p q : List Word} (hp : Elems F.n p) (hq : Elems F.n q)
  (hpl : p.length ≤ 2 ^ m) (hql : q.length ≤ 2 ^ m)
include hn hp hq hpl hql

/-- The perfect division divides samples, a sample over 0 being 0. -/
theorem eval_asPoly_pdiv {e : Nat} (he : e < 2 ^ m) : (F.asPoly (pdiv F m sub p q)).eval (F.residue (at' comb e)) =
    (F.asPoly p).eval (F.residue (at' comb e)) / (F.asPoly q).eval (F.residue (at' comb e)) := by
  have hps := (fft_keeps hF m hsub _ (hp.expand (2 ^ m))).1
  have hqs := (fft_keeps hF m hsub _ (hq.expand (2 ^ m))).1
  have hlp := length_fft F sub (length_expand p hpl)
  have hlq := (List.length_map F.inv).trans (length_fft F sub (length_expand q hql))
  rw [pdiv, hF.invSample_eq_map hn hqs, eval_asPoly_ifft hF hm hpoints hcomb hsub (mulSample_keeps hF _ _ hps).1
    (length_mulSample F hlp hlq) he, at'_mulSample F (he.trans_eq hlp.symm) (he.trans_eq hlq.symm), hF.at'_map_inv hn,
    hF.residue_mul (hps.isElem_at' e) (hF.inv (hqs.isElem_at' e)), hF.residue_inv_eq hn (hqs.isElem_at' e),
    residue_at'_fft_expand hF hm hpoints hcomb hsub hp hpl he, residue_at'_fft_expand hF hm hpoints hcomb hsub hq hql he,
    div_eq_mul_inv]

variable {c : List Word} (hprod : F.asPoly p = F.asPoly c * F.asPoly q)
include hprod

/-- A quotient short enough for its product with the divisor to fit the domain is the true quotient: the product has the
dividend's samples, also at the roots of the divisor (R232). -/
theorem asPoly_pdiv_of_short (hq0 : F.asPoly q ≠ 0) (hshort : coeffCount (pdiv F m sub p q) + q.length ≤ 2 ^ m + 1) :
    F.asPoly (pdiv F m sub p q) = F.asPoly c := by
  have hd : Elems F.n (pdiv F m sub p q) := (domainProduct_keeps hF m hsub hp hpl _).1
  have hmul := asPoly_mulNaivePoly hF hd.trim hq
  rw [F.asPoly_trim] at hmul
  have hl : (mulNaivePoly F (trim (pdiv F m sub p q)) q).length ≤ 2 ^ m := by
    rw [length_mulNaivePoly, length_trim, naiveLength]
    split <;> omega
  have heq : F.asPoly (mulNaivePoly F (trim (pdiv F m sub p q)) q) = F.asPoly p :=
    asPoly_eq_of_eval hF hm hpoints hcomb hsub (elems_mulNaivePoly hF hd.trim q) hp hl hpl fun e he => by
      rw [hmul, eval_mul, eval_asPoly_pdiv hF hm hpoints hcomb hsub hn hp hq hpl hql he]
      exact div_mul_cancel_of_imp fun h0 => by rw [hprod, eval_mul, h0, mul_zero]
  rw [hmul, hprod] at heq
  exact mul_right_cancel₀ hq0 heq

/-- A divisor with no root on the domain gives the true quotient (R229). -/
theorem asPoly_pdiv_of_no_root (hc : Elems F.n c) (hcl : c.length ≤ 2 ^ m)
    (hroot : ∀ e, e < 2 ^ m → (F.asPoly q).eval (F.residue (at' comb e)) ≠ 0) :
    F.asPoly (pdiv F m sub p q) = F.asPoly c := by
  obtain ⟨hd, hdl⟩ := domainProduct_keeps hF m hsub hp hpl (invSample F (fft F m sub (expand q (2 ^ m))))
  refine asPoly_eq_of_eval hF hm hpoints hcomb hsub hd hc hdl hcl fun e he => ?_
  have hdiv := eval_asPoly_pdiv hF hm hpoints hcomb hsub hn hp hq hpl hql he
  rw [hprod, eval_mul, mul_div_cancel_right₀ _ (hroot e he)] at hdiv
  exact hdiv

end Division

end Domain

end FieldOk

/-! ## The nine steps (R224) -/

/-- Step 1: the points of the listed positions. -/
def missingPoints (comb idx : List Word) : List Word := idx.map fun i => at' comb i.toNat

/-- Step 5: `DZ`, from the samples of `Z` times the codeword. -/
def recoverProduct (F : GF) (m : Nat) (comb sub cw idx : List Word) : List Word :=
  ifft F m sub (mulSample F (fft F m sub (expand (zpoly F (missingPoints comb idx)) (2 ^ m))) cw)

/-- Steps 6 to 8. -/
theorem recoverQuotient_eq_trim (F : GF) (m : Nat) (comb sub cw idx : List Word) (k : Word) :
    recoverQuotient F m comb sub cw idx k = trim (pdiv F m sub (substitute F (recoverProduct F m comb sub cw idx) k)
      (substitute F (zpoly F (missingPoints comb idx)) k)) := rfl

/-- What R232 asks of the operands: lengths within the budget, a nonzero scalar, and a codeword of `data` in which each slot is
right or erased and listed. -/
structure GF.Recoverable (F : GF) (m : Nat) (comb cw idx data : List Word) (k : Word) : Prop where
  cwLength : cw.length = 2 ^ m
  fits : idx.length + 1 ≤ 2 ^ m
  budget : idx.length + data.length ≤ 2 ^ m
  elems : Elems F.n data
  scalar : IsElem F.n k
  nonzero : k ≠ 0#64
  slot : ∀ e, e < 2 ^ m →
    at' cw e = evalLoop F data (at' comb e) ∨ at' cw e = 0#64 ∧ at' comb e ∈ missingPoints comb idx

theorem length_zpoly_missingPoints (F : GF) (comb idx : List Word) :
    (zpoly F (missingPoints comb idx)).length = idx.length + 1 := by rw [length_zpoly, missingPoints, List.length_map]

theorem elems_missingPoints {n : Nat} {comb : List Word} (hcomb : Elems n comb) (idx : List Word) :
    Elems n (missingPoints comb idx) := .map fun i _ => hcomb.isElem_at' i.toNat

theorem elems_recoverProduct {F : GF} (hF : FieldOk F) (m : Nat) (comb : List Word) {sub : List Word}
    (hsub : Elems F.n sub) (cw idx : List Word) : Elems F.n (recoverProduct F m comb sub cw idx) :=
  ((ifft_keeps hF m hsub).comp (mulSample_keeps hF cw) _ (fft_keeps hF m hsub _ ((elems_zpoly hF _).expand _)).1).1

@[simp] theorem length_substitute (F : GF) (p : List Word) (k : Word) : (substitute F p k).length = p.length :=
  length_substFrom ..

theorem length_recoverProduct (F : GF) {m : Nat} (comb sub : List Word) {cw idx : List Word} (hcw : cw.length = 2 ^ m)
    (hfits : idx.length + 1 ≤ 2 ^ m) : (recoverProduct F m comb sub cw idx).length = 2 ^ m :=
  length_ifft F sub (length_mulSample F
    (length_fft F sub (length_expand _ (length_zpoly_missingPoints .. ▸ hfits))) hcw)

/-- Step 6 keeps the lengths: the dividend fills the domain, and the divisor has one coefficient more than the list entries. -/
theorem length_dividend (F : GF) {m : Nat} (comb sub : List Word) {cw idx : List Word} (hcw : cw.length = 2 ^ m)
    (hfits : idx.length + 1 ≤ 2 ^ m) (k : Word) : (substitute F (recoverProduct F m comb sub cw idx) k).length = 2 ^ m :=
  (length_substitute ..).trans (length_recoverProduct F comb sub hcw hfits)

theorem length_divisor (F : GF) (comb idx : List Word) (k : Word) :
    (substitute F (zpoly F (missingPoints comb idx)) k).length = idx.length + 1 :=
  (length_substitute ..).trans (length_zpoly_missingPoints ..)

section Recovery

variable {F : GF} [Fact (Irreducible (toPoly F.poly))] (hF : FieldOk F)
include hF

/-- The roots of the vanishing polynomial are those it is made of (R212). -/
theorem eval_asPoly_zpoly_eq_zero_iff {roots : List Word} (hroots : Elems F.n roots) {x : Word} (hx : IsElem F.n x) :
    (F.asPoly (zpoly F roots)).eval (F.residue x) = 0 ↔ x ∈ roots := by
  have hfactor (r : Word) (hr : r ∈ roots) : (X + C (F.residue r)).eval (F.residue x) = 0 ↔ r = x := by
    rw [eval_add, eval_X, eval_C, ← F.residue_xor, hF.residue_eq_zero_iff (hx.xor (hroots r hr)), BitVec.xor_eq_zero_iff,
      eq_comm]
  rw [asPoly_zpoly hF hroots, eval_list_prod, List.map_map, List.prod_eq_zero_iff, List.mem_map]
  simp only [Function.comp_apply]
  exact ⟨fun ⟨r, hr, h0⟩ => (hfactor r hr).mp h0 ▸ hr, fun hx => ⟨x, hx, (hfactor x hx).mpr rfl⟩⟩

theorem asPoly_zpoly_ne_zero {roots : List Word} (hroots : Elems F.n roots) : F.asPoly (zpoly F roots) ≠ 0 := fun h0 => by
  have hlead := at'_zpoly_length hF hroots
  have hcoeff := F.coeff_asPoly (zpoly F roots) roots.length
  rw [h0, coeff_zero, hlead, F.residue_one] at hcoeff
  exact zero_ne_one hcoeff

variable {m : Nat} (hm : 1 ≤ m) {comb sub : List Word} (hpoints : F.Points m comb sub) (hcomb : Elems F.n comb)
  (hsub : Elems F.n sub) {cw idx data : List Word} {k : Word} (h : F.Recoverable m comb cw idx data k)
include hm hpoints hcomb hsub h

/-- `DZ` is `Z` times the data (R228). -/
theorem asPoly_recoverProduct : F.asPoly (recoverProduct F m comb sub cw idx) =
    F.asPoly (zpoly F (missingPoints comb idx)) * F.asPoly data := by
  have hlZ := length_zpoly_missingPoints F comb idx
  have hbudget := h.budget
  refine asPoly_ifft_mulSample hF hm hpoints hcomb hsub (elems_zpoly hF _) h.elems (hlZ.trans_le h.fits) h.cwLength (by omega)
    fun e he => (h.slot e he).imp_right fun ⟨herased, hlisted⟩ => ⟨herased, ?_⟩
  exact (eval_asPoly_zpoly_eq_zero_iff hF (elems_missingPoints hcomb idx) (hcomb.isElem_at' e)).mpr hlisted

/-- Step 6: `DZ(kx)` is `D(kx)` times `Z(kx)`. -/
theorem asPoly_substitute_recoverProduct : F.asPoly (substitute F (recoverProduct F m comb sub cw idx) k) =
    F.asPoly (substitute F data k) * F.asPoly (substitute F (zpoly F (missingPoints comb idx)) k) := by
  rw [asPoly_substitute hF h.scalar (elems_recoverProduct hF m comb hsub cw idx),
    asPoly_recoverProduct hF hm hpoints hcomb hsub h, mul_comp, mul_comm,
    asPoly_substitute hF h.scalar h.elems, asPoly_substitute hF h.scalar (elems_zpoly hF _)]

variable (hn : 2 ≤ F.n)
include hn

/-- Where the degree check passes, the quotient is `D(kx)`: then its product with `Z(kx)` fits the domain (R232). -/
theorem asPoly_recoverQuotient (hshort : (recoverQuotient F m comb sub cw idx k).length ≤ data.length) :
    F.asPoly (recoverQuotient F m comb sub cw idx k) = F.asPoly (substitute F data k) := by
  have hk0 := (hF.residue_eq_zero_iff h.scalar).not.mpr h.nonzero
  have hZ := elems_zpoly hF (missingPoints comb idx)
  have hlZk := length_divisor F comb idx k
  have hne : F.asPoly (substitute F (zpoly F (missingPoints comb idx)) k) ≠ 0 := by
    rw [asPoly_substitute hF h.scalar hZ, Ne, comp_C_mul_X_eq_zero_iff (mem_nonZeroDivisors_of_ne_zero hk0)]
    exact asPoly_zpoly_ne_zero hF (elems_missingPoints hcomb idx)
  have hbudget := h.budget
  rw [recoverQuotient_eq_trim, length_trim] at hshort
  rw [recoverQuotient_eq_trim, F.asPoly_trim]
  exact asPoly_pdiv_of_short hF hm hpoints hcomb hsub hn
    (elems_substitute hF (elems_recoverProduct hF m comb hsub cw idx) k) (elems_substitute hF hZ k)
    (length_dividend F comb sub h.cwLength h.fits k).le (hlZk.trans_le h.fits)
    (asPoly_substitute_recoverProduct hF hm hpoints hcomb hsub h) hne (by omega)

/-- A scalar that takes no point of the domain to a listed point leaves `Z(kx)` no root there, so the quotient is `D(kx)` and as
short as the data (R229). -/
theorem length_recoverQuotient_le (hgood : ∀ x ∈ missingPoints comb idx, ∀ e, e < 2 ^ m → x ≠ F.mul k (at' comb e)) :
    (recoverQuotient F m comb sub cw idx k).length ≤ data.length := by
  have hZ := elems_zpoly hF (missingPoints comb idx)
  have hDZk := elems_substitute hF (elems_recoverProduct hF m comb hsub cw idx) k
  have hlDZk := (length_dividend F comb sub h.cwLength h.fits k).le
  have hldata : (substitute F data k).length ≤ 2 ^ m :=
    (length_substitute ..).trans_le ((Nat.le_add_left _ _).trans h.budget)
  have hroot (e : Nat) (he : e < 2 ^ m) :
      (F.asPoly (substitute F (zpoly F (missingPoints comb idx)) k)).eval (F.residue (at' comb e)) ≠ 0 := by
    rw [asPoly_substitute hF h.scalar hZ, eval_comp, eval_mul, eval_C, eval_X, ← hF.residue_mul h.scalar (hcomb.isElem_at' e),
      Ne, eval_asPoly_zpoly_eq_zero_iff hF (elems_missingPoints hcomb idx) (hF.mul h.scalar _)]
    exact fun hlisted => hgood _ hlisted e he rfl
  have hquotient := asPoly_pdiv_of_no_root hF hm hpoints hcomb hsub hn hDZk (elems_substitute hF hZ k) hlDZk
    ((length_divisor ..).trans_le h.fits) (asPoly_substitute_recoverProduct hF hm hpoints hcomb hsub h)
    (elems_substitute hF h.elems k) hldata hroot
  rw [recoverQuotient_eq_trim, length_trim, ← length_substitute F data k]
  exact coeffCount_le_of_asPoly_eq hF (domainProduct_keeps hF m hsub hDZk hlDZk _).1 hquotient

/-- Step 9: the substitution of the inverse scalar undoes step 6, and the padding gives the data their length back. -/
theorem expand_substitute_recoverQuotient (hshort : (recoverQuotient F m comb sub cw idx k).length ≤ data.length) :
    expand (substitute F (recoverQuotient F m comb sub cw idx k) (F.inv k)) data.length = data := by
  have hk0 := (hF.residue_eq_zero_iff h.scalar).not.mpr h.nonzero
  have hq := elems_recoverQuotient hF m hsub comb cw idx k
  have hundo : (C (F.residue k) * X).comp (C (F.residue (F.inv k)) * X) = X := by
    rw [hF.residue_inv_eq hn h.scalar, mul_comp, C_comp, X_comp, ← mul_assoc, ← C_mul, mul_inv_cancel₀ hk0, C_1, one_mul]
  refine eq_of_asPoly_eq hF ((elems_substitute hF hq _).expand _) h.elems
    (length_expand _ ((length_substitute ..).trans_le hshort)) ?_
  rw [F.asPoly_expand, asPoly_substitute hF (hF.inv h.scalar) hq,
    asPoly_recoverQuotient hF hm hpoints hcomb hsub h hn hshort, asPoly_substitute hF h.scalar h.elems, comp_assoc, hundo,
    comp_X]

end Recovery

end Sys2Proof.Machine

/-!
PROOFS. The commands of the Erasure Coder (45_erasure.md): the words they assemble to, their checks in order (R221, R226), their
results by the loops of the rules (R222, R224), and that a recovery is exact or refused (R232).
-/

namespace Sys2Proof

open Laws Reference

theorem assembles_encode (d a : PReg) (factor : BitVec 32) :
    Assembles (.encode d a factor) 0x60 d.val a.val 0 0 factor.toNat :=
  assembles_of_row 0x60#8 (ofPReg d) (ofPReg a) 0 0 factor (row_mem 28 (by decide)) (EncodingFits.encode d a factor) rfl rfl
    (congr (congrArg (Instr.encode · · factor) (toPReg_ofPReg d)) (toPReg_ofPReg a)) rfl

theorem assembles_recover (d a b : PReg) (c : EReg) (dlen : BitVec 32) :
    Assembles (.recover d a b c dlen) 0x61 d.val a.val b.val c.val dlen.toNat :=
  assembles_of_row 0x61#8 (ofPReg d) (ofPReg a) (ofPReg b) (ofEReg c) dlen (row_mem 29 (by decide))
    (EncodingFits.recover d a b c dlen) rfl rfl
    (congr (congr (congrArg (Instr.recover · · · c dlen) (toPReg_ofPReg d)) (toPReg_ofPReg a)) (toPReg_ofPReg b)) rfl

end Sys2Proof

namespace Sys2Proof.Machine

open Reference

theorem mem_iff_at' {p : List Word} {w : Word} : w ∈ p ↔ ∃ i, i < p.length ∧ at' p i = w := by
  rw [List.mem_iff_getElem]
  refine exists_congr fun i => ⟨fun ⟨hi, hw⟩ => ⟨hi, ?_⟩, fun ⟨hi, hw⟩ => ⟨hi, ?_⟩⟩
  · simpa [at', hi] using hw
  · simpa [at', hi] using hw

theorem State.HasBasis.length_comb {s : State} (hs : s.HasBasis) : s.comb.length = 2 ^ s.basisM := by
  obtain ⟨-, -, _, -, -, -, hcomb, -⟩ := hs
  rw [hcomb, (combHolds_combinations _ _).length]

/-! ## The checks on the index list (R225, R226) -/

/-- Positions that name erased slots pass, and the rest of the list is checked from the position after them. -/
theorem badSlot_append {N : Nat} {cw pre : List Word} (h : ∀ i ∈ pre, i.toNat < N ∧ at' cw i.toNat = 0#64) (t : Nat)
    (rest : List Word) : badSlot N cw t (pre ++ rest) = badSlot N cw (t + pre.length) rest := by
  induction pre generalizing t with
  | nil => rfl
  | cons i is ih =>
    obtain ⟨⟨hlt, hzero⟩, his⟩ := List.forall_mem_cons.mp h
    have hslot : ¬ cw.getD i.toNat 0#64 ≠ 0#64 := not_not.mpr hzero
    rw [List.cons_append, badSlot, if_neg hlt.not_ge, if_neg hslot, ih his, List.length_cons, Nat.add_assoc,
      Nat.add_comm 1]

section IndexList

variable {s : State} {a b : PReg} {t : Nat} (h : ∀ u, u < t → SlotErased s a b u)
include h

/-- The check comes to position `t` where those before it pass. -/
theorem badSlot_of_erased (ht : t ≤ s.len b) :
    badSlot s.domain (s.buf a) 0 (s.buf b) = badSlot s.domain (s.buf a) t ((s.buf b).drop t) := by
  have hlen : ((s.buf b).take t).length = t := List.length_take_of_le ht
  have hpre : ∀ i ∈ (s.buf b).take t, i.toNat < s.domain ∧ at' (s.buf a) i.toNat = 0#64 := fun i hi => by
    obtain ⟨u, hu, rfl⟩ := mem_iff_at'.mp hi
    rw [hlen] at hu
    rw [at'_take hu]
    exact h u hu
  conv_lhs => rw [← List.take_append_drop t (s.buf b), badSlot_append hpre, hlen, Nat.zero_add]

/-- The first position that does not pass is reported, an index out of range before a slot that is not 0. -/
theorem badSlot_of_first (ht : t < s.len b) : badSlot s.domain (s.buf a) 0 (s.buf b) =
    if s.domain ≤ (at' (s.buf b) t).toNat then some (1#8, t)
    else if at' (s.buf a) (at' (s.buf b) t).toNat ≠ 0#64 then some (2#8, t)
    else badSlot s.domain (s.buf a) (t + 1) ((s.buf b).drop (t + 1)) := by
  have hhead : (s.buf b)[t] = at' (s.buf b) t := List.getElem_eq_getD _
  rw [badSlot_of_erased h ht.le, List.drop_eq_getElem_cons ht, hhead, badSlot]
  rfl

end IndexList

/-- The checks on the index list before the nine steps. -/
def indexChecks (w : Word) (a b : PReg) (s : State) (k : Result) : Result :=
  match badSlot s.domain (s.buf a) 0 (s.buf b) with
  | some (sub, t) => raise w .recon sub t s
  | none => k

theorem indexChecks_of_bad {w : Word} {a b : PReg} {s : State} {sub : BitVec 8} {t : Nat}
    (h : badSlot s.domain (s.buf a) 0 (s.buf b) = some (sub, t)) (k : Result) :
    indexChecks w a b s k = raise w .recon sub t s := by
  rw [indexChecks, h]

theorem indexChecks_of_erased {w : Word} {a b : PReg} {s : State} (h : ∀ u, u < s.len b → SlotErased s a b u) (k : Result) :
    indexChecks w a b s k = k := by
  have hnone : badSlot s.domain (s.buf a) 0 (s.buf b) = none := by
    rw [badSlot_of_erased h le_rfl, State.len, List.drop_length, badSlot]
  rw [indexChecks, hnone]

/-! ## RECOVER (R224, R226) -/

section Recover

variable {s : State} {d a b : PReg} {c : EReg} {dlen : BitVec 32}

/-- What RECOVER does once the checks on lengths pass. -/
theorem exec_recover_of_lengths (h : RecoverLengths s a b dlen.toNat) : exec (.recover d a b c dlen) s =
    indexChecks (encode (.recover d a b c dlen)) a b s
      (recoverSteps (encode (.recover d a b c dlen)) d a b (reg s c) dlen.toNat s) := by
  obtain ⟨hbasis, hcw, h0, heven, hfits, hbudget⟩ := h
  rw [← State.readE_eq_reg]
  exact (if_neg hbasis).trans ((if_neg (not_not.mpr hcw)).trans ((if_neg (by omega)).trans
    ((if_neg hfits.not_gt).trans (if_neg hbudget.not_gt))))

theorem exec_recover_of_erased (h : RecoverLengths s a b dlen.toNat) (herased : ∀ u, u < s.len b → SlotErased s a b u) :
    exec (.recover d a b c dlen) s = recoverSteps (encode (.recover d a b c dlen)) d a b (reg s c) dlen.toNat s :=
  (exec_recover_of_lengths h).trans (indexChecks_of_erased herased _)

variable {w k : Word} {n : Nat}

/-- The degree check refuses a quotient of more than `dlen` coefficients. -/
theorem recoverSteps_of_long (hk : k ≠ 0#64)
    (h : n < (recoverQuotient s.field s.basisM s.comb s.sub (s.buf a) (s.buf b) k).length) : recoverSteps w d a b k n s =
      raise w .recon 3#8 (recoverQuotient s.field s.basisM s.comb s.sub (s.buf a) (s.buf b) k).length s :=
  (if_neg hk).trans (if_pos h)

theorem recoverSteps_of_short (hk : k ≠ 0#64)
    (h : (recoverQuotient s.field s.basisM s.comb s.sub (s.buf a) (s.buf b) k).length ≤ n) : recoverSteps w d a b k n s =
      finish (s.setBuf d (expand (substitute s.field
        (recoverQuotient s.field s.basisM s.comb s.sub (s.buf a) (s.buf b) k) (s.field.inv k)) n)) :=
  (if_neg hk).trans (if_neg h.not_gt)

end Recover

/-- The quotient by the loops of R224, trimmed, is that of the command. -/
theorem trim_recoverQuotientLoops {F : GF} [Fact (Irreducible (toPoly F.poly))] (hF : FieldOk F) (hn : 2 ≤ F.n) {m : Nat}
    (hm : 1 ≤ m) {sub : List Word} (hsub : sub.length = 2 ^ (m - 1)) (hsubElems : Elems F.n sub) (comb : List Word)
    {cw idx : List Word} (hcw : cw.length = 2 ^ m) (hfits : idx.length + 1 ≤ 2 ^ m) (k : Word) :
    trim (recoverQuotientLoops F m comb sub cw idx k) = recoverQuotient F m comb sub cw idx k := by
  have hlZ : (zpoly F (missingPoints comb idx)).length ≤ 2 ^ m := (length_zpoly_missingPoints ..).trans_le hfits
  have hDZ : ifftLoops F m sub (product F (fftLoops F m sub (pad (zpoly F (missingPoints comb idx)) (2 ^ m))) cw) =
      recoverProduct F m comb sub cw idx := by
    rw [fftLoops_pad F hm hsub hlZ, ifftLoops_product F hm hsub (length_fft F sub (length_expand _ hlZ)) hcw, recoverProduct]
  rw [recoverQuotientLoops, rootProduct_eq_zpoly, ← missingPoints, hDZ, scale_eq_substitute, scale_eq_substitute,
    pdivLoops_eq_pdiv F hm hsub (length_dividend F comb sub hcw hfits k).le ((length_divisor ..).trans_le hfits) hF hn
      hsubElems (elems_substitute hF (elems_zpoly hF _) k), recoverQuotient_eq_trim]

/-! ## RECOVER over an irreducible polynomial and an active basis (R232) -/

section Irreducible

variable {s : State} {a b : PReg} {k : Word} {n : Nat}

theorem eq_recoverQuotient_of_isTrim (h : RecoverLengths s a b n) (hirr : s.field.Irreducible) (hs : s.HasBasis) {q : List Word}
    (hq : IsTrim (recoverQuotientLoops s.field s.basisM s.comb s.sub (s.buf a) (s.buf b) k) q) :
    q = recoverQuotient s.field s.basisM s.comb s.sub (s.buf a) (s.buf b) k := by
  obtain ⟨-, hcw, -, -, hfits, -⟩ := h
  have hfact : Fact (Irreducible (toPoly s.field.poly)) := ⟨s.fieldOk.irreducible_toPoly hirr⟩
  rw [isTrim_iff.mp hq, trim_recoverQuotientLoops s.fieldOk s.two_le_field_n hs.one_le_basisM hs.points.subLength hs.elems_sub
    s.comb hcw hfits]

theorem mem_missingPoints {comb : List Word} {x : Word} :
    x ∈ missingPoints comb (s.buf b) ↔ ∃ u, u < s.len b ∧ at' comb (at' (s.buf b) u).toNat = x := by
  simp only [missingPoints, List.mem_map, mem_iff_at', exists_exists_and_eq_and]
  rfl

/-- A codeword whose unlisted positions are right and whose listed ones are erased. -/
theorem recoverable_of_erased {data : List Word} (h : RecoverLengths s a b data.length)
    (herased : ∀ u, u < s.len b → SlotErased s a b u) (hk : IsElem s.field.n k) (hk0 : k ≠ 0#64)
    (hdata : Elems s.field.n data)
    (hright : ∀ t, t < 2 ^ s.basisM → (∀ u, u < s.len b → (at' (s.buf b) u).toNat ≠ t) →
      at' (s.buf a) t = evalLoop s.field data (at' s.comb t)) :
    s.field.Recoverable s.basisM s.comb (s.buf a) (s.buf b) data k := by
  obtain ⟨-, hcw, -, -, hfits, hbudget⟩ := h
  refine ⟨hcw, hfits, hbudget, hdata, hk, hk0, fun e he => ?_⟩
  by_cases hlisted : ∃ u, u < s.len b ∧ (at' (s.buf b) u).toNat = e
  · obtain ⟨u, hu, rfl⟩ := hlisted
    exact .inr ⟨(herased u hu).2, mem_missingPoints.mpr ⟨u, hu, rfl⟩⟩
  · exact .inl (hright e he fun u hu hue => hlisted ⟨u, hu, hue⟩)

end Irreducible

end Sys2Proof.Machine

namespace Sys2Proof.Proofs

open Sys2Proof.Machine Sys2Proof.Reference

/-- Settles O53: the two checks in order, and the transform of the padded data, whose length is the domain's (R221, R222). -/
theorem encodeCommand : Obligations.EncodeCommand := by
  refine fun d a factor => ⟨assembles_encode d a factor, fails .noBasis fun s hb => if_pos hb,
    fails .length fun s ⟨hb, hl⟩ => (if_neg hb).trans (if_pos hl), bufferResult fun s ⟨hb, hl, hsub⟩ => ?_⟩
  have hle : s.len a ≤ 2 ^ s.basisM := Nat.le_of_dvd (Nat.two_pow_pos _) ⟨_, hl.symm⟩
  rw [fftLoops_pad s.field (Nat.one_le_iff_ne_zero.mpr hb) hsub hle, ← hl]
  exact (if_neg hb).trans (if_neg (not_not.mpr hl))

/-- Settles O54: the checks on lengths, the first position of the index list that does not pass, the scalar, and the nine steps
in loops, whose quotient the degree check looks at trimmed (R224, R226). -/
theorem recoverCommand : Obligations.RecoverCommand := by
  intro d a b c dlen
  refine ⟨assembles_recover d a b c dlen, fails .noBasis fun s hb => if_pos hb,
    fails .length fun s ⟨hb, hcw⟩ => (if_neg hb).trans (if_pos hcw),
    fails .roots fun s ⟨hb, hcw, hroots⟩ => (if_neg hb).trans ((if_neg (not_not.mpr hcw)).trans (if_pos hroots)),
    fails .length fun s ⟨hb, hcw, h0, heven, hlong⟩ => (if_neg hb).trans ((if_neg (not_not.mpr hcw)).trans
      ((if_neg (by omega)).trans (if_pos hlong))),
    fails .recon fun s ⟨hb, hcw, h0, heven, hfits, hover⟩ => (if_neg hb).trans ((if_neg (not_not.mpr hcw)).trans
      ((if_neg (by omega)).trans ((if_neg hfits.not_gt).trans (if_pos hover)))),
    fun t => fails .recon fun s ⟨hl, ht, hbefore, hrange⟩ => ?_,
    fun t => fails .recon fun s ⟨hl, ht, hbefore, hrange, hslot⟩ => ?_,
    fails .recon fun s ⟨hl, herased, hk⟩ => (exec_recover_of_erased hl herased).trans (if_pos hk),
    fun q => fails .recon fun s ⟨hl, hirr, hs, herased, hk, hq, hlong⟩ => ?_,
    fun q => bufferResult fun s ⟨hl, hirr, hs, herased, hk, hq, hshort⟩ => ?_⟩
  · rw [exec_recover_of_lengths hl]
    exact indexChecks_of_bad ((badSlot_of_first hbefore ht).trans (if_pos hrange)) _
  · rw [exec_recover_of_lengths hl]
    exact indexChecks_of_bad ((badSlot_of_first hbefore ht).trans ((if_neg hrange.not_ge).trans (if_pos hslot))) _
  · obtain rfl := eq_recoverQuotient_of_isTrim hl hirr hs hq
    exact (exec_recover_of_erased hl herased).trans (recoverSteps_of_long hk hlong)
  · obtain rfl := eq_recoverQuotient_of_isTrim hl hirr hs hq
    rw [exec_recover_of_erased hl herased, recoverSteps_of_short hk hshort, scale_eq_substitute]
    rfl

/-- Settles O55: a quotient that passes the degree check is the true one, as its product with `Z(kx)` fits the domain; with a
scalar that is not bad, `Z(kx)` has no root there and the quotient passes (R229, R232). -/
theorem recoveryIsExactOrRefused : Obligations.RecoveryIsExactOrRefused := by
  intro s d a b c dlen data hirr hs hl herased hk0 hlen hdata hright
  have hfact : Fact (Irreducible (toPoly s.field.poly)) := ⟨s.fieldOk.irreducible_toPoly hirr⟩
  have hk : IsElem s.field.n (reg s c) := s.readE_eq_reg c ▸ s.readE_lt c
  have hrec := recoverable_of_erased (hlen ▸ hl) herased hk hk0 hdata hright
  have hsteps := exec_recover_of_erased (d := d) (c := c) hl herased
  have hexact (hshort : (recoverQuotient s.field s.basisM s.comb s.sub (s.buf a) (s.buf b) (reg s c)).length ≤ dlen.toNat) :
      ∃ t, exec (.recover d a b c dlen) s = .next t ∧ t.buf d = data ∧ Completes [] [d] false s t := by
    rw [recoverSteps_of_short hk0 hshort, ← hlen, expand_substitute_recoverQuotient s.fieldOk hs.one_le_basisM hs.points
      hs.elems_comb hs.elems_sub hrec s.two_le_field_n (hlen ▸ hshort)] at hsteps
    exact ⟨_, hsteps, s.setBuf_buf_self d _, .setBuf s d _⟩
  refine ⟨?_, fun hgood => hexact ?_⟩
  · rcases Nat.lt_or_ge dlen.toNat
      (recoverQuotient s.field s.basisM s.comb s.sub (s.buf a) (s.buf b) (reg s c)).length with hlong | hshort
    · exact .inr ⟨_, hsteps.trans (recoverSteps_of_long hk0 hlong)⟩
    · exact .inl (hexact hshort)
  · rw [← hlen]
    refine length_recoverQuotient_le s.fieldOk hs.one_le_basisM hs.points hs.elems_comb hs.elems_sub hrec s.two_le_field_n
      fun x hx e he => ?_
    obtain ⟨u, hu, rfl⟩ := mem_missingPoints.mp hx
    exact hgood u hu _ (mem_iff_at'.mpr ⟨e, he.trans_eq hs.length_comb.symm, rfl⟩)

end Sys2Proof.Proofs

/-!
PROOFS. The buffer commands and the acceptance of a command (46_buffer_system.md): what a write of `CMD` or `STATUS` does in a
step (R245, R271), and the commands NOP, RESIZE, TRIM and COPY (R240 to R243).
-/

namespace Sys2Proof

open Laws Reference

theorem assembles_nop : Assembles .nop 0x00 0 0 0 0 0 :=
  assembles_of_row 0x00#8 0 0 0 0 0 (row_mem 0 (by decide)) EncodingFits.nop rfl rfl rfl rfl

theorem assembles_resize (d : PReg) (len : BitVec 32) : Assembles (.resize d len) 0x70 d.val 0 0 0 len.toNat :=
  assembles_of_row 0x70#8 (ofPReg d) 0 0 0 len (row_mem 30 (by decide)) (EncodingFits.resize d len) rfl rfl
    (congrArg (Instr.resize · len) (toPReg_ofPReg d)) rfl

theorem assembles_trim (d : PReg) : Assembles (.trim d) 0x71 d.val 0 0 0 0 :=
  assembles_of_row 0x71#8 (ofPReg d) 0 0 0 0 (row_mem 31 (by decide)) (EncodingFits.trim d) rfl rfl
    (congrArg Instr.trim (toPReg_ofPReg d)) rfl

theorem assembles_copy (d a : PReg) : Assembles (.copy d a) 0x72 d.val a.val 0 0 0 :=
  assembles_of_row 0x72#8 (ofPReg d) (ofPReg a) 0 0 0 (row_mem 32 (by decide)) (EncodingFits.copy d a) rfl rfl
    (congr (congrArg Instr.copy (toPReg_ofPReg d)) (toPReg_ofPReg a)) rfl

end Sys2Proof

namespace Sys2Proof.Machine

open Reference

/-! ## A write that is not held (R62, R245, R271) -/

/-- The step of a write that is not held: the word of the map takes it, or it is refused. -/
theorem step_write {s : State} {l : Loc} (hl : l.inMap) {v : Word} {rest : List Input}
    (h : s.inputs = .access (.write l.offset v) :: rest) (hfree : (s.busy && heldWhileBusy (.write l.offset v)) = false) :
    step s = .next (((s.setInputs rest).writeLoc l v).getD (s.setInputs rest).refuse) := by
  rw [step_access h, accessStep_free hfree, State.hostAccess, State.hostWrite_offset hl]

/-- A write of `CMD` in the error state sets `CMDDROP` and nothing else (R245). -/
theorem step_cmdWrite_of_errf {s : State} {w : Word} {rest : List Input} (hb : s.busy = false) (he : s.errf = true)
    (h : s.inputs = .access (.write 0x003 w) :: rest) : step s = .next { s with inputs := rest, cmddrop := true } := by
  have hissue : (s.setInputs rest).issue w = { s with inputs := rest, cmddrop := true } := if_pos he
  rw [step_write (l := .cmd) trivial h (by rw [hb, Bool.false_and]), State.writeLoc, Option.getD_some, hissue]

/-- A write of `STATUS` is never held (R69). -/
theorem step_statusWrite {s : State} {v : Word} {rest : List Input} (h : s.inputs = .access (.write 0x002 v) :: rest) :
    step s = .next ((s.setInputs rest).writeStatus v) :=
  step_write (l := .status) trivial h (Bool.and_false _)

/-- Bit 2 of a write of `STATUS` leaves the error state (R271). -/
theorem State.writeStatus_errf {v : Word} (h : v.getLsbD 2 = true) (s : State) : (s.writeStatus v).errf = false := by
  rw [State.writeStatus, if_pos h]
  rfl

/-! ## The buffer commands (R240 to R243) -/

theorem Completes.complete (s : State) : Completes [] [] false s s.complete :=
  .of_update (fun _ _ => rfl) fun _ _ => rfl

/-- A resized list keeps the entries that remain, and the new ones are zero (R241). -/
theorem at'_resizeList {len i : Nat} (hi : i < len) (p : List Word) :
    at' (resizeList p len) i = if i < p.length then at' p i else 0#64 := by
  rcases Nat.lt_or_ge len p.length with hcut | hgrow
  · rw [resizeList, if_neg hcut.not_ge, at'_take hi, if_pos (hi.trans hcut)]
  · rw [resizeList, if_pos hgrow]
    split
    · next hold => exact at'_append_left hold _
    · next hnew =>
      obtain ⟨j, rfl⟩ := Nat.exists_eq_add_of_le (Nat.le_of_not_lt hnew)
      rw [at'_append_right, at'_zeros]

/-- A trimmed list is empty or ends with a nonzero element (R191). -/
theorem trim_last_ne_zero (p : List Word) : (trim p).length = 0 ∨ at' (trim p) ((trim p).length - 1) ≠ 0#64 := by
  rw [length_trim]
  cases h : coeffCount p with
  | zero => exact .inl rfl
  | succ k =>
    rw [trim, h, Nat.add_sub_cancel, at'_take k.lt_succ_self]
    exact .inr (at'_coeffCount_ne_zero h)

end Sys2Proof.Machine

namespace Sys2Proof.Proofs

open Sys2Proof.Machine Sys2Proof.Reference

/-- Settles O8: a held write waits while the command in flight runs; the other three cases take effect in the step (R69, R245,
R271). -/
theorem cmdWriteIsHeldDroppedOrAccepted : Obligations.CmdWriteIsHeldDroppedOrAccepted :=
  ⟨fun _ w _ h => ⟨fun hb => inputs_of_held h hb (heldWhileBusy_write (by decide) w),
    fun hb he => step_cmdWrite_of_errf hb he h, fun hb he => step_cmdWrite hb he h⟩,
    fun _ _ _ h hbit => ⟨_, step_statusWrite h, State.writeStatus_errf hbit _⟩⟩

/-- Settles O56, command by command: the capacity check of RESIZE, and the list each command writes (R240 to R243). -/
theorem bufferCommands : Obligations.BufferCommands := by
  refine ⟨⟨assembles_nop, fun s => ⟨_, rfl, .complete s, rfl, rfl, rfl⟩⟩,
    fun d len => ⟨assembles_resize d len, fails .capacity fun s hcap => if_pos hcap, fun s hcap => ?_⟩,
    fun d => ⟨assembles_trim d, fun s => ?_⟩, fun d a => ⟨assembles_copy d a, bufferResult fun _ _ => rfl⟩⟩
  · have hbuf := s.setBuf_buf_self d (resizeList (s.buf d) len.toNat)
    exact ⟨_, if_neg hcap.not_gt, (congrArg List.length hbuf).trans (length_resizeList ..),
      fun i hi => (congrArg (at' · i) hbuf).trans (at'_resizeList hi _), .setBuf s d _, rfl, rfl, rfl⟩
  · have hbuf : (s.setBuf d (trim (s.buf d))).complete.buf d = trim (s.buf d) := s.setBuf_buf_self d _
    refine ⟨_, rfl, isTrim_iff.mpr hbuf, ?_, .setBuf s d _, rfl, rfl, rfl⟩
    rw [State.len, hbuf]
    exact trim_last_ne_zero (s.buf d)

end Sys2Proof.Proofs

/-!
PROOFS. Errors and the interrupt line (60_exceptions.md): every bit of a word that decodes is one its command writes back (R93),
so the word an error records is the word in flight; a command ends with its error on the state before it, or without touching
`ERRF` (R262); and what a write of `STATUS` clears (R271).
-/

namespace Sys2Proof

open Laws

/-! ## The word of a decoded command (R93) -/

/-- A word whose byte without an operand is 0 is packed from its opcode and its fields (R90). -/
theorem eq_pack_fieldsOf {w : Word} (hz : w.extractLsb' 32 8 = 0#8) :
    w = pack (opcodeOf w) (fieldsOf w).d (fieldsOf w).a (fieldsOf w).b (fieldsOf w).c (fieldsOf w).imm := by
  apply BitVec.eq_of_getLsbD_eq
  intro i hi
  simp only [opcodeOf, fieldsOf, pack, ← hz, BitVec.getLsbD_append, BitVec.getLsbD_extractLsb']
  grind

/-- Where the bits a mask fixes are 0, the open ones are the whole. -/
theorem and_not_of_and_eq_zero {k : Nat} {x m : BitVec k} (h : x &&& m = 0#k) : x &&& ~~~m = x := by
  calc x &&& ~~~m = x &&& m ||| x &&& ~~~m := by rw [h, BitVec.zero_or]
    _ = x := by rw [← BitVec.and_or_distrib_left, BitVec.or_not_self, BitVec.and_allOnes]

/-- What the row builds is packed from the fields of the format, the bits the mask fixes at 0 (R92, R95, R98). -/
theorem encode_build {r : Row} (hr : r ∈ rows) (f : Fields) :
    encode (r.build f) = pack r.opcode (f.d &&& ~~~(fieldsOf r.fmt.mask).d) (f.a &&& ~~~(fieldsOf r.fmt.mask).a)
      (f.b &&& ~~~(fieldsOf r.fmt.mask).b) (f.c &&& ~~~(fieldsOf r.fmt.mask).c) (f.imm &&& ~~~(fieldsOf r.fmt.mask).imm) := by
  have hE (x : BitVec 4) : ofEReg (toEReg x) = x := rfl
  have hP : ∀ x : BitVec 4, ofPReg (toPReg x) = x &&& 7#4 := by decide
  have h4 (x : BitVec 4) : x &&& 15#4 = x := BitVec.and_allOnes
  have h32 (x : BitVec 32) : x &&& 4294967295#32 = x := BitVec.and_allOnes
  revert r
  simp [rows, rowsKernel, rowsTransform, rowsPoly, encode, Format.mask, fieldsOf, hE, hP, h4, h32]

/-- A part of the word below the opcode is 0 at every bit the mask fixes. -/
theorem extractLsb'_and_mask {r : Row} {w : Word} (hm : w &&& r.fmt.mask = r.matchWord) {i k : Nat} (hi : i + k ≤ 56) :
    w.extractLsb' i k &&& r.fmt.mask.extractLsb' i k = 0#k := by
  rw [← BitVec.extractLsb'_and, hm, Row.matchWord, BitVec.extractLsb'_append_eq_of_add_le hi]
  simp

/-- No format has an operand in bits 39:32 (R92). -/
theorem extractLsb'_mask_unused (f : Format) : f.mask.extractLsb' 32 8 = BitVec.allOnes 8 := by cases f <;> decide

/-- A word that decodes is the word of its command: its row's mask has fixed every bit that is not written back (R93). -/
theorem encode_of_decode {w : Word} {i : Instr} (h : decode w = .ok i) : encode i = w := by
  obtain ⟨r, hr, hm, rfl, -⟩ := decode_eq_ok_iff.mp h
  have hz : w.extractLsb' 32 8 = 0#8 := by
    have hunused := extractLsb'_and_mask hm (i := 32) (k := 8) (by decide)
    rwa [extractLsb'_mask_unused, BitVec.and_allOnes] at hunused
  have hopen {i k : Nat} (hi : i + k ≤ 56) : w.extractLsb' i k &&& ~~~r.fmt.mask.extractLsb' i k = w.extractLsb' i k :=
    and_not_of_and_eq_zero (extractLsb'_and_mask hm hi)
  calc encode (r.build (fieldsOf w))
      = pack r.opcode (fieldsOf w).d (fieldsOf w).a (fieldsOf w).b (fieldsOf w).c (fieldsOf w).imm := by
        rw [encode_build hr]
        simp (disch := decide) only [fieldsOf, hopen]
    _ = w := by rw [← opcodeOf_of_match hm, ← eq_pack_fieldsOf hz]

end Sys2Proof

namespace Sys2Proof.Machine

/-! ## How a command ends (R246, R262) -/

/-- The run of the command word `w` from `s` left `ERRF` as it was, or `t` is `s` with the error's six assignments. -/
def EndsPrecisely (s : State) (w : Word) (t : State) : Prop :=
  t.errf = s.errf ∨ ∃ k sub val, t = s.fail w k sub val

namespace EndsPrecisely

variable {s : State} {w : Word}

/-- A command that completes from a state in which it has not touched `ERRF`. -/
theorem leads_finish {t : State} (h : t.errf = s.errf) : Leads (EndsPrecisely s w) (finish t) := ⟨_, rfl, .inl h⟩

theorem leads_raise (k : ErrKind) (sub : BitVec 8) (val : Nat) : Leads (EndsPrecisely s w) (raise w k sub val s) :=
  ⟨_, rfl, .inr ⟨k, sub, val, rfl⟩⟩

/-- A check in front of the rest of a command raises the error on the state before the command. -/
theorem leads_check {c : Prop} [Decidable c] {k : ErrKind} {sub : BitVec 8} {val : Nat} {r : Result}
    (hr : Leads (EndsPrecisely s w) r) : Leads (EndsPrecisely s w) (if c then raise w k sub val s else r) := by
  split
  · exact leads_raise k sub val
  · exact hr

theorem leads_domainCheck {d : PReg} {r : Result} (hr : Leads (EndsPrecisely s w) r) :
    Leads (EndsPrecisely s w) (domainCheck w d s r) :=
  leads_check (leads_check hr)

theorem leads_convert (f : Nat → List Word → List Word) (d : PReg) : Leads (EndsPrecisely s w) (convert w f d s) := by
  unfold convert
  split
  · exact leads_finish rfl
  · exact leads_raise ..

/-- `FRAND` raises no error, whether or not the port lets it complete (R129, U7). -/
theorem leads_frand (d : EReg) : Leads (EndsPrecisely s w) (execFrand d s) := by
  unfold execFrand
  split
  · exact leads_finish rfl
  · split
    · exact ⟨_, rfl, .inl rfl⟩
    · exact leads_finish rfl

theorem leads_recover (d a b : PReg) (c : EReg) (dlen : BitVec 32) :
    Leads (EndsPrecisely s (encode (.recover d a b c dlen))) (execRecover d a b c dlen s) := by
  refine leads_check (leads_check (leads_check (leads_check (leads_check ?_))))
  split
  · exact leads_raise ..
  · exact leads_check (leads_check (leads_finish rfl))

/-- Every command checks first and writes after: its error is on the state before it, and no write touches `ERRF`. -/
theorem leads_exec (i : Instr) (s : State) : Leads (EndsPrecisely s (encode i)) (exec i s) := by
  cases i with
  | nop | fadd | fsub | fneg | fmul | fmuln | fsqr | finv | eval | subst | invs | trim | copy => exact leads_finish rfl
  | frand d => exact leads_frand d
  | radix d | iradix d => exact leads_convert _ d
  | fft | ifft | fftl | ifftl | fftp | ifftp => exact leads_domainCheck (leads_finish rfl)
  | fbfly | fibfly | pmuln | muls | resize => exact leads_check (leads_finish rfl)
  | basis | encode => exact leads_check (leads_check (leads_finish rfl))
  | pdiv | zpoly => exact leads_check (leads_check (leads_check (leads_finish rfl)))
  | pmul => exact leads_check (leads_check (leads_check (leads_check (leads_finish rfl))))
  | recover d a b c dlen => exact leads_recover d a b c dlen

/-- The ENGINE's run of the word in flight: of a command, or of a word that is none (R96). -/
theorem leads_engineStep (h : s.inflight = some w) : Leads (EndsPrecisely s w) (engineStep s) := by
  rw [engineStep_eq, h]
  cases hd : decode w with
  | ok i => simpa only [hd, encode_of_decode hd] using leads_exec i s
  | error e => exact ⟨_, by simp only [hd], .inr ⟨.illegal, 0#8, 0, rfl⟩⟩

end EndsPrecisely

/-- The nine codes (R260). -/
theorem ErrKind.code_mem (k : ErrKind) :
    k.code ∈ [0x01#8, 0x02#8, 0x03#8, 0x04#8, 0x10#8, 0x11#8, 0x12#8, 0x13#8, 0x14#8] := by
  cases k <;> decide

/-- With no input to come the step is the ENGINE's (R275). -/
theorem step_of_inputs_nil {s : State} (h : s.inputs = []) : step s = engineStep s := by
  simp only [step, nextStep, h]

/-! ## What a write of `STATUS` clears (R26, R271) -/

/-- A write of `STATUS` field by field, `ERRF` among the write-one-to-clear bits. -/
theorem State.writeStatus_eq (s : State) (v : Word) : s.writeStatus v = { s with
    done := s.done && !v.getLsbD 1
    errf := s.errf && !v.getLsbD 2
    buserr := s.buserr && !v.getLsbD 3
    cmddrop := s.cmddrop && !v.getLsbD 4
    err := if v.getLsbD 2 then 0#8 else s.err
    errinfo := if v.getLsbD 2 then 0#64 else s.errinfo
    errcmd := if v.getLsbD 2 then 0#64 else s.errcmd } := by
  unfold State.writeStatus
  cases v.getLsbD 2 with
  | true => simp [State.clearError]
  | false => simp

theorem State.hostWrite_status (s : State) (v : Word) : s.hostWrite 0x002 v = s.writeStatus v :=
  State.hostWrite_offset (l := .status) trivial v

theorem State.hostWrite_ctrl (s : State) (v : Word) : s.hostWrite 0x001 v = s.writeCtrl v :=
  State.hostWrite_offset (l := .ctrl) trivial v

theorem State.hostWrite_cmd (s : State) (w : Word) : s.hostWrite 0x003 w = s.issue w :=
  State.hostWrite_offset (l := .cmd) trivial w

/-- Outside the error state a write of `CMD` is accepted (R245). -/
theorem State.issue_of_not_errf {s : State} (h : s.errf = false) (w : Word) :
    s.issue w = { s with inflight := some w } := by
  rw [State.issue, h]
  rfl

/-! ## The four bits of the interrupt line (R25, R26, R268) -/

theorem State.statusWord_done (s : State) : s.statusWord.getLsbD 1 = s.done := by
  simp only [State.statusWord, BitVec.getLsbD_append]
  simp

theorem State.statusWord_errf (s : State) : s.statusWord.getLsbD 2 = s.errf := by
  simp only [State.statusWord, BitVec.getLsbD_append]
  simp

theorem State.ctrlWord_ieDone (s : State) : s.ctrlWord.getLsbD 1 = s.ieDone := by
  simp only [State.ctrlWord, BitVec.getLsbD_append]
  simp

theorem State.ctrlWord_ieErr (s : State) : s.ctrlWord.getLsbD 2 = s.ieErr := by
  simp only [State.ctrlWord, BitVec.getLsbD_append]
  simp

/-- A write of `CTRL` without bit 63 leaves the two enables as written, whether the width changes or not (R25, R39). -/
theorem State.writeCtrl_enables {s : State} {v : Word} (h : v.getLsbD 63 = false) :
    (s.writeCtrl v).ieDone = v.getLsbD 1 ∧ (s.writeCtrl v).ieErr = v.getLsbD 2 := by
  rw [State.writeCtrl, if_neg (Bool.eq_false_iff.mp h)]
  exact ⟨rfl, rfl⟩

/-- The line is low where both enables are clear. -/
theorem State.irq_of_disabled {s : State} (hd : s.ieDone = false) (he : s.ieErr = false) : s.irq = false := by
  simp [State.irq, hd, he]

/-- The line is low where neither status bit is set. -/
theorem State.irq_of_clear {s : State} (hd : s.done = false) (he : s.errf = false) : s.irq = false := by
  simp [State.irq, hd, he]

end Sys2Proof.Machine

namespace Sys2Proof.Proofs

open Sys2Proof.Machine

/-- Settles O21: the run of the word in flight leaves `ERRF` as it was, or is the shared `fail` on the state before it (R262). -/
theorem errorsArePrecise : Obligations.ErrorsArePrecise := by
  intro s t w hw hin he hs ht
  obtain ⟨t', hs', hend⟩ := EndsPrecisely.leads_engineStep hw
  rw [← step_of_inputs_nil hin, hs] at hs'
  cases hs'
  rcases hend with hsame | ⟨k, sub, val, rfl⟩
  · rw [hsame, he] at ht
    cases ht
  · exact ⟨k.code, k.code_mem, sub, val, rfl⟩

/-- Settles O10: the effect of the write bit by bit; with bit 2 set it leaves the error state, and `CMD` is accepted (R271). -/
theorem statusWriteLeavesErrorState : Obligations.StatusWriteLeavesErrorState := by
  intro s v
  rw [State.hostWrite_status]
  refine ⟨s.writeStatus_eq v, fun hbit w => ?_⟩
  rw [State.hostWrite_cmd, State.issue_of_not_errf (State.writeStatus_errf hbit s)]

/-- Settles O19: the bits of `STATUS` and `CTRL` are the four the line is made of, and each of the three falls clears a bit of
both its terms (R268). -/
theorem interruptLine : Obligations.InterruptLine := by
  refine ⟨fun s status ctrl hstatus hctrl => ?_, rfl, fun s => ?_, fun s => ?_⟩
  · obtain rfl : s.statusWord = status := Option.some.inj hstatus
    obtain rfl : s.ctrlWord = ctrl := Option.some.inj hctrl
    rw [s.statusWord_done, s.statusWord_errf, s.ctrlWord_ieDone, s.ctrlWord_ieErr, State.irq]
  · rw [State.hostWrite_ctrl]
    obtain ⟨hdone, herr⟩ := State.writeCtrl_enables (s := s) (v := (BitVec.ofBool s.width.toBool).setWidth 64) (by simp)
    exact State.irq_of_disabled (hdone.trans (by simp)) (herr.trans (by simp))
  · rw [State.hostWrite_status, State.writeStatus_eq]
    exact State.irq_of_clear (Bool.and_false _) (Bool.and_false _)

end Sys2Proof.Proofs

/-!
PROOFS. The word of a command (30_encoding.md): the row of its opcode passes it and builds the command from it again, so decoding
undoes encoding for every command but the butterflies on one register (R98, R100, R101).
-/

namespace Sys2Proof

open Laws

/-- Every command is what its row of the opcode map builds from the fields of its word (R95, R98). -/
theorem exists_row (i : Instr) : ∃ r ∈ rows, r.build (fieldsOf (encode i)) = i := by
  cases i <;> simp [rows, rowsKernel, rowsTransform, rowsPoly, encode]

/-- A mask is made of its parts: the whole opcode, the operand fields, and the bits without an operand (R92). -/
theorem mask_eq_append (f : Format) : f.mask = 255#8 ++ (fieldsOf f.mask).d ++ (fieldsOf f.mask).a ++ (fieldsOf f.mask).b ++
    (fieldsOf f.mask).c ++ 255#8 ++ (fieldsOf f.mask).imm := by
  cases f <;> decide +kernel

/-- The word of a command passes the mask test of the row that builds it: the fields it packs are 0 where the mask fixes them. -/
theorem encode_build_and_mask {r : Row} (hr : r ∈ rows) (f : Fields) : encode (r.build f) &&& r.fmt.mask = r.matchWord := by
  have h8 (x : BitVec 8) : x &&& 255#8 = x := BitVec.and_allOnes
  have h0 {k : Nat} (x m : BitVec k) : x &&& ~~~m &&& m = 0#k := by
    rw [BitVec.and_assoc, BitVec.and_comm (~~~m), BitVec.and_not_self]
    exact BitVec.and_zero
  rw [mask_eq_append, encode_build hr, pack_and, matchWord_eq, h8]
  simp only [h0]
  rfl

/-- What the word of a command decodes to, for every operand (R100, R101). -/
theorem decode_encode (i : Instr) : decode (encode i) = if i.wellFormed then .ok i else .error .sameRegister := by
  obtain ⟨r, hr, hb⟩ := exists_row i
  have hm : encode i &&& r.fmt.mask = r.matchWord := hb ▸ encode_build_and_mask hr _
  rw [decode_of_match hr hm, hb]

end Sys2Proof

namespace Sys2Proof.Proofs

open Sys2Proof.Machine

/-- Settles O3: the row of the opcode passes the word of a command and builds the command from it (R98, R100). -/
theorem decodeAfterEncode : Obligations.DecodeAfterEncode := fun i hwf => by rw [decode_encode, if_pos hwf]

/-- Settles O4: the masks fix every bit that `encode` does not write back, and `decode` answers well-formed commands (R93). -/
theorem encodeAfterDecode : Obligations.EncodeAfterDecode := by
  intro w i h
  obtain ⟨-, -, -, -, hwf⟩ := decode_eq_ok_iff.mp h
  exact ⟨encode_of_decode h, hwf⟩

/-- Settles O7: what a word decodes to turns on well-formedness alone, and only a butterfly on one register lacks it (R101). -/
theorem onlyButterflyCoincidenceIsIllegal : Obligations.OnlyButterflyCoincidenceIsIllegal := by
  refine ⟨fun d b => ⟨?_, ?_⟩, fun i hi => decodeAfterEncode i (wellFormed_iff.mpr ?_)⟩
  · rw [decode_encode_fbfly, if_pos rfl]
  · rw [decode_encode_fibfly, if_pos rfl]
  · rintro ⟨d, b, h | h⟩
    · exact (hi d b).1 h
    · exact (hi d b).2 h

/-- Settles O2: each of the words is the one R98 gives for its command. -/
theorem specWordsDecode : Obligations.SpecWordsDecode :=
  ⟨decodeAfterEncode .nop rfl, decodeAfterEncode (.fmul 3 1 2) rfl, decodeAfterEncode (.fibfly 2 1 3) rfl,
    decodeAfterEncode (.basis 5 16#32) rfl, decodeAfterEncode (.iradix 6) rfl, decodeAfterEncode (.fftp 1) rfl,
    decodeAfterEncode (.eval 15 7 14) rfl, decodeAfterEncode (.pdiv 2 1 0) rfl,
    decodeAfterEncode (.recover 7 6 5 15 65536#32) rfl, decodeAfterEncode (.resize 7 65536#32) rfl⟩

end Sys2Proof.Proofs

/-!
PROOFS. The laws of the field (40_field_kernel.md section 1): those of R128 hold modulo any polynomial, since an element is
determined by its residue; the inverse needs an irreducible one. Perfect division gives the quotient (44_poly.md R210).
-/

namespace Sys2Proof.Reference

open Sys2Proof.Machine

section Laws

variable {F : GF} (hF : FieldOk F) {a b c : Word} (ha : IsElem F.n a) (hb : IsElem F.n b) (hc : IsElem F.n c)
include hF ha hb hc

/-- The two right factors of a product may be exchanged. -/
theorem FieldOk.mul_mul_swap : F.mul (F.mul a b) c = F.mul (F.mul a c) b := by
  have hab := hF.mul ha b
  have hac := hF.mul ha c
  refine hF.eq_of_residue_eq (hF.mul hab c) (hF.mul hac b) ?_
  rw [hF.residue_mul hab hc, hF.residue_mul ha hb, hF.residue_mul hac hb, hF.residue_mul ha hc, mul_right_comm]

/-- The product distributes over addition, the exclusive or (R121). -/
theorem FieldOk.mul_xor : F.mul a (b ^^^ c) = F.mul a b ^^^ F.mul a c := by
  refine hF.eq_of_residue_eq (hF.mul ha _) ((hF.mul ha b).xor (hF.mul ha c)) ?_
  rw [hF.residue_mul ha (hb.xor hc), F.residue_xor, F.residue_xor, hF.residue_mul ha hb, hF.residue_mul ha hc, mul_add]

end Laws

end Sys2Proof.Reference

namespace Sys2Proof.Machine

open Reference

/-! ## The perfect division (R210) -/

/-- The quotient fills the domain. -/
theorem length_pdiv (F : GF) (sub : List Word) {m : Nat} {p q : List Word} (hp : p.length ≤ 2 ^ m) (hq : q.length ≤ 2 ^ m) :
    (pdiv F m sub p q).length = 2 ^ m :=
  length_ifft F sub (length_mulSample F (length_fft F sub (length_expand p hp))
    ((length_invPasses ..).trans (length_fft F sub (length_expand q hq))))

/-- A factor is not longer than the product with a nonempty list (R195). -/
theorem length_le_mulNaivePoly (F : GF) (c : List Word) {q : List Word} (hq : q ≠ []) :
    c.length ≤ (mulNaivePoly F c q).length := by
  have hpos := List.length_pos_iff.mpr hq
  rw [length_mulNaivePoly, naiveLength]
  split <;> omega

end Sys2Proof.Machine

namespace Sys2Proof.Proofs

open Sys2Proof.Machine Sys2Proof.Reference

/-- Settles O32: each law holds of the residues, and an element is determined by its residue (R128). -/
theorem multiplicationLaws : Obligations.MultiplicationLaws := fun F hF a _ _ ha hb hc =>
  ⟨hF.mul_swap ha hb, hF.mul_mul_swap ha hb hc, F.mul_zero_right a, hF.mul_one_right ha, F.sqr_eq a, hF.mul_xor ha hb hc⟩

/-- Settles O31: modulo an irreducible polynomial the residues are a field of `2^n` elements, in which the power `2^n - 2`
inverts (R125). -/
theorem inverseInverts : Obligations.InverseInverts := by
  intro P W hirr a ha h0
  have hF := P.fieldOk W
  have hfact : Fact (Irreducible (toPoly (P.field W).poly)) := ⟨hF.irreducible_toPoly hirr⟩
  rw [← P.field_n W] at ha ⊢
  exact ⟨hF.mul_inv_self (P.two_le_field_n W) ha h0, hF.inv ha⟩

/-- Settles O51: on a domain without roots of the divisor the division gives the polynomial of the quotient, and both lists have
the domain's length (R210). -/
theorem perfectDivisionGivesTheQuotient : Obligations.PerfectDivisionGivesTheQuotient := by
  intro s q c hirr hs hq hc hne hql hpl hroot
  have hF := s.fieldOk
  have hfact : Fact (Irreducible (toPoly s.field.poly)) := ⟨hF.irreducible_toPoly hirr⟩
  rw [convLoops_eq_mulNaivePoly] at hpl ⊢
  have hp := elems_mulNaivePoly hF hc q
  have hcl := (length_le_mulNaivePoly s.field c hne).trans hpl
  have hd : Elems s.field.n (pdiv s.field s.basisM s.sub (mulNaivePoly s.field c q) q) :=
    (domainProduct_keeps hF s.basisM hs.elems_sub hp hpl _).1
  refine eq_of_asPoly_eq hF hd (Elems.expand hc _)
    ((length_pdiv s.field s.sub hpl hql).trans (length_expand c hcl).symm) ?_
  refine (asPoly_pdiv_of_no_root hF hs.one_le_basisM hs.points hs.elems_comb hs.elems_sub s.two_le_field_n hp hq hpl hql
    (asPoly_mulNaivePoly hF hc hq) hc hcl fun e he => ?_).trans (s.field.asPoly_expand c _).symm
  rw [← residue_evalLoop hF hq (hs.elems_comb.isElem_at' e), Ne, hF.residue_eq_zero_iff (isElem_evalLoop hF hq _)]
  exact hroot e he

end Sys2Proof.Proofs

/-!
PROOFS. How a command ends (60_exceptions.md, 70_reset_and_hazards.md section 4): completed unless the entropy port is dead, with
an error of its own list or with `ERRF` untouched, the tables left to BASIS; and that the bits `DONE`, `BUSERR` and `CMDDROP` have
no part in it (10_state.md R37).
-/

namespace Sys2Proof.Machine

open Reference

/-! ## How a command ends (R260, R262, R304) -/

/-- `t` has the tables of `s` (R28 to R31). -/
structure SameTables (s t : State) : Prop where
  span : t.basisM = s.basisM
  basis : t.basis = s.basis
  comb : t.comb = s.comb
  sub : t.sub = s.sub

/-- The end `t` of the command `i` from `s`. -/
structure CommandEnd (i : Instr) (s t : State) : Prop where
  /-- All commands but `FRAND` with a dead port complete (R304, U7). -/
  completes : (∀ d, i ≠ .frand d) ∨ s.entropyDead = false → t.busy = false ∧ t.done = true
  /-- An error is of the command's list, and a missing basis is its cause where it says so (R260). -/
  error : t.errf = s.errf ∨ t.err ∈ mayRaise i ∧ (t.err = 0x11#8 → s.basisM = 0)
  /-- Only BASIS replaces the tables (R158). -/
  tables : (∀ a m, i ≠ .basis a m) → SameTables s t

theorem ErrKind.eq_noBasis_of_code {k : ErrKind} (h : k.code = 0x11#8) : k = .noBasis := by
  revert h
  cases k <;> decide

namespace CommandEnd

variable {i : Instr} {s : State}

theorem leads_finish {t : State} (he : t.errf = s.errf) (ht : (∀ a m, i ≠ .basis a m) → SameTables s t) :
    Leads (CommandEnd i s) (finish t) :=
  ⟨_, rfl, fun _ => ⟨rfl, rfl⟩, .inl he, fun hi => { ht hi with }⟩

/-- A command that writes no table. -/
theorem leads_finish_of_sameTables {t : State} (he : t.errf = s.errf) (ht : SameTables s t) :
    Leads (CommandEnd i s) (finish t) := leads_finish he fun _ => ht

theorem leads_raise {w : Word} {k : ErrKind} {sub : BitVec 8} {val : Nat} (hk : k.code ∈ mayRaise i)
    (hb : k = .noBasis → s.basisM = 0) : Leads (CommandEnd i s) (raise w k sub val s) :=
  ⟨_, rfl, fun _ => ⟨rfl, rfl⟩, .inr ⟨hk, fun h => hb (ErrKind.eq_noBasis_of_code h)⟩,
    fun _ => ⟨rfl, rfl, rfl, rfl⟩⟩

/-- A check for another error than a missing basis, in front of the rest of a command. -/
theorem leads_check {c : Prop} [Decidable c] {w : Word} {k : ErrKind} {sub : BitVec 8} {val : Nat} {r : Result}
    (hr : Leads (CommandEnd i s) r) (hk : c → k.code ∈ mayRaise i := by simp [mayRaise, ErrKind.code])
    (hne : k ≠ .noBasis := by decide) : Leads (CommandEnd i s) (if c then raise w k sub val s else r) := by
  split
  · next hc => exact leads_raise (hk hc) fun h => absurd h hne
  · exact hr

/-- The check for a missing basis. -/
theorem leads_basisCheck {w : Word} {r : Result} (hr : Leads (CommandEnd i s) r)
    (hk : ErrKind.noBasis.code ∈ mayRaise i := by simp [mayRaise, ErrKind.code]) :
    Leads (CommandEnd i s) (if s.basisM = 0 then raise w .noBasis 0#8 0 s else r) := by
  split
  · next hc => exact leads_raise hk fun _ => hc
  · exact hr

theorem leads_convert {w : Word} {f : Nat → List Word → List Word} {d : PReg} (hk : ErrKind.length.code ∈ mayRaise i) :
    Leads (CommandEnd i s) (convert w f d s) := by
  unfold convert
  split
  · exact leads_finish_of_sameTables rfl ⟨rfl, rfl, rfl, rfl⟩
  · exact leads_raise hk nofun

/-- `FRAND` completes unless no pending word answers and the port is dead (U7). -/
theorem leads_frand (d : EReg) : Leads (CommandEnd (.frand d) s) (execFrand d s) := by
  unfold execFrand
  split
  · exact leads_finish_of_sameTables rfl ⟨rfl, rfl, rfl, rfl⟩
  · split
    · next hdead =>
      refine ⟨_, rfl, fun h => ?_, .inl rfl, fun _ => ⟨rfl, rfl, rfl, rfl⟩⟩
      rcases h with h | h
      · exact absurd rfl (h d)
      · exact absurd (hdead.symm.trans h) (by decide)
    · exact leads_finish_of_sameTables rfl ⟨rfl, rfl, rfl, rfl⟩

theorem leads_recover (d a b : PReg) (c : EReg) (dlen : BitVec 32) :
    Leads (CommandEnd (.recover d a b c dlen) s) (execRecover d a b c dlen s) := by
  refine leads_basisCheck (leads_check (leads_check (leads_check (leads_check ?_))))
  split
  · exact leads_raise (by simp [mayRaise, ErrKind.code]) nofun
  · exact leads_check (leads_check (leads_finish_of_sameTables rfl ⟨rfl, rfl, rfl, rfl⟩))

/-- Every command, from every state. -/
theorem leads_exec (i : Instr) (s : State) : Leads (CommandEnd i s) (exec i s) := by
  have hsame {i : Instr} {t : State} := @leads_finish_of_sameTables i s t
  cases i with
  | nop | fadd | fsub | fneg | fmul | fmuln | fsqr | finv | eval | subst | invs | trim | copy =>
    exact hsame rfl ⟨rfl, rfl, rfl, rfl⟩
  | frand d => exact leads_frand d
  | basis a m => exact leads_check (leads_check (leads_finish rfl fun h => absurd rfl (h a m)))
  | radix d | iradix d => exact leads_convert (by simp [mayRaise, ErrKind.code])
  | fft | ifft | fftl | ifftl | fftp | ifftp | encode => exact leads_basisCheck (leads_check (hsame rfl ⟨rfl, rfl, rfl, rfl⟩))
  | fbfly | fibfly | pmuln | muls | resize => exact leads_check (hsame rfl ⟨rfl, rfl, rfl, rfl⟩)
  | pdiv | zpoly => exact leads_basisCheck (leads_check (leads_check (hsame rfl ⟨rfl, rfl, rfl, rfl⟩)))
  | pmul => exact leads_basisCheck (leads_check (leads_check (leads_check (hsame rfl ⟨rfl, rfl, rfl, rfl⟩))))
  | recover d a b c dlen => exact leads_recover d a b c dlen

theorem of_exec {t : State} (h : exec i s = .next t) : CommandEnd i s t := by
  obtain ⟨t', ht', hend⟩ := leads_exec i s
  cases h.symm.trans ht'
  exact hend

end CommandEnd

theorem CommandFrame.of_exec {i : Instr} {s t : State} (h : exec i s = .next t) : CommandFrame s t := by
  obtain ⟨t', ht', hframe⟩ := CommandFrame.leads_exec i s
  cases h.symm.trans ht'
  exact hframe

/-- The first check of a command that needs a basis (R260, R263). -/
theorem exec_of_noBasis {i : Instr} {s : State} (hb : s.basisM = 0) (hi : needsBasis i = true) :
    exec i s = raise (encode i) .noBasis 0#8 0 s := by
  cases i with
  | fft | ifft | fftl | ifftl | fftp | ifftp | pmul | pdiv | zpoly | encode | recover => exact if_pos hb
  | _ => cases hi

/-- The commands that need a basis are those whose list has `E_NOBASIS` (R260). -/
theorem noBasis_not_mem {i : Instr} (h : needsBasis i = false) : 0x11#8 ∉ mayRaise i := by
  cases i with
  | fft | ifft | fftl | ifftl | fftp | ifftp | pmul | pdiv | zpoly | encode | recover => cases h
  | fbfly d a b | fibfly d a b =>
    rw [mayRaise]
    split <;> simp
  | _ => simp [mayRaise]

/-! ## `DONE`, `BUSERR` and `CMDDROP` have no part in it (R37) -/

/-- `s` with other values of the three bits. -/
def State.withFlags (s : State) (x y z : Bool) : State := { s with done := x, buserr := y, cmddrop := z }

/-- Where the first result is a next state, so is the second, and the two differ in the three bits at most. -/
def Agree (r r' : Result) : Prop := ∀ t, r = .next t → ∃ u, r' = .next u ∧ t = u.withFlags t.done t.buserr t.cmddrop

namespace Agree

variable {s : State} {x y z : Bool}

theorem next {t u : State} (h : t = u.withFlags t.done t.buserr t.cmddrop) : Agree (.next t) (.next u) := by
  rintro t' ⟨⟩
  exact ⟨u, rfl, h⟩

/-- The same check in front of both runs. -/
theorem check {c : Prop} [Decidable c] {w : Word} {k : ErrKind} {sub : BitVec 8} {val : Nat} {r r' : Result}
    (h : Agree r r') :
    Agree (if c then raise w k sub val s else r) (if c then raise w k sub val (s.withFlags x y z) else r') := by
  split
  · exact next rfl
  · exact h

theorem convert (w : Word) (f : Nat → List Word → List Word) (d : PReg) :
    Agree (convert w f d s) (convert w f d (s.withFlags x y z)) := by
  have hlen : (s.withFlags x y z).len d = s.len d := rfl
  rw [Machine.convert, Machine.convert, hlen]
  split
  · exact next rfl
  · exact next rfl

theorem frand (d : EReg) : Agree (execFrand d s) (execFrand d (s.withFlags x y z)) := by
  have hport : takeNonzero (s.withFlags x y z).field.mask (s.withFlags x y z).entropy =
    takeNonzero s.field.mask s.entropy := rfl
  have hdead : (s.withFlags x y z).entropyDead = s.entropyDead := rfl
  rw [execFrand, execFrand, hport, hdead]
  split
  · exact next rfl
  · split
    · exact next rfl
    · exact next rfl

theorem recover (d a b : PReg) (c : EReg) (dlen : BitVec 32) :
    Agree (execRecover d a b c dlen s) (execRecover d a b c dlen (s.withFlags x y z)) := by
  have hslots : badSlot (s.withFlags x y z).domain ((s.withFlags x y z).buf a) 0 ((s.withFlags x y z).buf b) =
    badSlot s.domain (s.buf a) 0 (s.buf b) := rfl
  refine check (check (check (check (check ?_))))
  simp only [hslots]
  split
  · exact next rfl
  · exact check (check (next rfl))

theorem exec (i : Instr) : Agree (exec i s) (exec i (s.withFlags x y z)) := by
  cases i with
  | nop | fadd | fsub | fneg | fmul | fmuln | fsqr | finv | eval | subst | invs | trim | copy => exact next rfl
  | frand d => exact frand d
  | radix d | iradix d => exact convert _ _ d
  | fbfly | fibfly | pmuln | muls | resize => exact check (next rfl)
  | basis | encode | fft | ifft | fftl | ifftl | fftp | ifftp => exact check (check (next rfl))
  | pdiv | zpoly => exact check (check (check (next rfl)))
  | pmul => exact check (check (check (check (next rfl))))
  | recover d a b c dlen => exact recover d a b c dlen

end Agree

end Sys2Proof.Machine

namespace Sys2Proof.Proofs

open Sys2Proof.Machine Sys2Proof.Reference

/-- Settles O22: a command's error is of its list, or `ERRF` is as it was (R260). -/
theorem onlyListedErrors : Obligations.OnlyListedErrors := by
  intro i s t h hs ht
  rcases (CommandEnd.of_exec h).error with hsame | ⟨hmem, -⟩
  · exact absurd (hsame.symm.trans ht) (by simp [hs])
  · exact hmem

/-- Settles O23: every command answers a next state, and completes unless it is `FRAND` with a dead port (R304). -/
theorem everyCommandCompletes : Obligations.EveryCommandCompletes := by
  intro i s
  obtain ⟨t, ht, hend⟩ := CommandEnd.leads_exec i s
  exact ⟨t, ht, hend.completes⟩

/-- Settles O24: the first check of the eleven commands, no other list has the code, and the check is its only cause (R260). -/
theorem transformsNeedABasis : Obligations.TransformsNeedABasis := by
  refine ⟨fun i s hb hi => exec_of_noBasis hb hi, fun i s t hi h hs ht hcode => ?_, fun i s t hb h hs ht hcode => ?_⟩
  · exact noBasis_not_mem hi (hcode ▸ onlyListedErrors i s t h hs ht)
  · rcases (CommandEnd.of_exec h).error with hsame | ⟨-, hcause⟩
    · exact absurd (hsame.symm.trans ht) (by simp [hs])
    · exact hb (hcause hcode)

/-- Settles O25: the frame of every command, and the tables but for BASIS (R158). -/
theorem commandsKeepControlAndTables : Obligations.CommandsKeepControlAndTables := by
  intro i s t h
  obtain ⟨hwidth, hdone, herr, hbuserr, hdrop, hin, hdead, hrdata, hparams⟩ := CommandFrame.of_exec h
  refine ⟨hwidth, hdone, herr, hbuserr, hdrop, hin, hdead, hrdata, hparams, fun hi => ?_⟩
  obtain ⟨hspan, hbasis, hcomb, hsub⟩ := (CommandEnd.of_exec h).tables hi
  exact ⟨hspan, hbasis, hcomb, hsub⟩

/-- Settles O26: no check and no written value reads one of the three bits (R37). -/
theorem statusFlagsDoNotInfluence : Obligations.StatusFlagsDoNotInfluence := fun i _ t _ _ _ h => Agree.exec i t h

end Sys2Proof.Proofs

/-!
PROOFS. The steps of the host and the engine (46_buffer_system.md, 70_reset_and_hazards.md): the run of the accepted command, the
accesses that wait for it (20_memory.md R69), the two resets (R290 to R294), the platform bridge (R71, R72), and the layout of
`STATUS` and `CTRL` (10_state.md section 5).
-/

namespace Sys2Proof.Machine

open Reference

/-! ## The run of the accepted command (R244 to R246) -/

/-- The ENGINE runs the command that the word in flight decodes to. -/
theorem engineStep_of_decode {s : State} {w : Word} {i : Instr} (hd : decode w = .ok i) (hs : s.inflight = some w) :
    engineStep s = exec i s := by
  rw [engineStep_eq, hs]
  simp only [hd]

theorem step_of_idle {s : State} {rest : List Input} (h : s.inputs = .idle :: rest) :
    step s = engineStep (s.setInputs rest) := by
  simp only [step, nextStep, h]

theorem State.busy_of_inflight {s : State} {w : Word} (h : s.inflight = some w) : s.busy = true := by
  rw [State.busy, h, Option.isSome_some]

theorem step_of_held {s : State} {a : Access} {rest : List Input} (h : s.inputs = .access a :: rest) (hb : s.busy = true)
    (ha : heldWhileBusy a = true) : step s = engineStep s := by
  rw [step_access h, accessStep_held hb ha]

/-- `withFetchWord` leaves nothing but an idle input in front of the ENGINE. -/
theorem step_withFetchWord (s : State) (nbits v : Nat) :
    step (s.withFetchWord nbits v) = engineStep { s with inflight := some (tableWord nbits v) } := by
  cases h : s.inputs with
  | nil =>
    have hin : (s.withFetchWord nbits v).inputs = [] := by simp only [State.withFetchWord, State.accept, h, idleFirst]
    rw [step_of_inputs_nil hin]
    simp only [State.withFetchWord, State.accept, h, idleFirst]
  | cons x rest =>
    have hin : (s.withFetchWord nbits v).inputs = .idle :: x :: rest := by
      simp only [State.withFetchWord, State.accept, h, idleFirst]
    rw [step_of_idle hin, ← h]
    rfl

/-! ## The accesses that wait (R69) -/

/-- What is not held: the six reads and a write of `STATUS`. -/
theorem heldWhileBusy_eq_false_iff {a : Access} : heldWhileBusy a = false ↔
    (∃ off ∈ [0x000, 0x006, 0x001, 0x002, 0x004, 0x005], a = .read off) ∨ ∃ v, a = .write 0x002 v := by
  cases a with
  | read off =>
    rw [heldWhileBusy, decide_eq_false_iff_not, not_not]
    simp only [List.mem_cons, List.not_mem_nil, or_false, Access.read.injEq, exists_eq_right', reduceCtorEq, exists_const]
    omega
  | write off v => simp [heldWhileBusy]

theorem step_of_not_held {s : State} {a : Access} {rest : List Input} (h : s.inputs = .access a :: rest)
    (hfree : (s.busy && heldWhileBusy a) = false) : step s = .next ((s.setInputs rest).hostAccess a) := by
  rw [step_access h, accessStep_free hfree]

/-- The step in which a held access waits completes the command, unless the entropy port is dead (R304). -/
theorem idle_of_engineStep {s t : State} (h : engineStep s = .next t) (hdead : s.entropyDead = false) : t.busy = false := by
  rw [engineStep_eq] at h
  split at h
  · next hs =>
    cases h
    rw [State.busy, hs, Option.isSome_none]
  · split at h
    · exact ((CommandEnd.of_exec h).completes (.inr hdead)).1
    · cases h
      rfl

/-! ## The parameters (R6, R291) -/

theorem State.writeCtrl_params (s : State) (v : Word) : (s.writeCtrl v).params = s.params := by
  unfold State.writeCtrl
  split
  · rfl
  · simp only
    split <;> rfl

/-- No write of a word of the map reaches the parameters. -/
theorem State.writeLoc_params {s t : State} {l : Loc} {v : Word} (ht : s.writeLoc l v = some t) : t.params = s.params := by
  cases l with
  | ctrl => exact Option.some.inj ht ▸ s.writeCtrl_params v
  | status => rw [← Option.some.inj ht, State.writeStatus_eq]
  | cmd =>
    rw [← Option.some.inj ht, State.issue]
    split <;> rfl
  | e i => exact Option.some.inj ht ▸ rfl
  | elem b i =>
    simp only [State.writeLoc, Option.ite_none_right_eq_some, Option.some.injEq] at ht
    obtain ⟨-, rfl⟩ := ht
    rfl
  | id | errinfo | errcmd | param | len | basis | comb | sub => cases ht

theorem State.hostAccess_params (s : State) (a : Access) : (s.hostAccess a).params = s.params := by
  cases a with
  | read off =>
    rw [State.hostAccess]
    rcases s.hostRead_cases off with ⟨v, -, h⟩ | ⟨-, h⟩
    · rw [h]
    · rw [h]
  | write off v =>
    rw [State.hostAccess]
    rcases s.hostWrite_cases off v with ⟨l, t, -, ht, h⟩ | h
    · rw [h, State.writeLoc_params ht]
    · rw [h]

theorem engineStep_params {s t : State} (h : engineStep s = .next t) : t.params = s.params := by
  obtain ⟨t', ht', hframe⟩ := CommandFrame.leads_engineStep s
  cases h.symm.trans ht'
  exact hframe.params

theorem accessStep_params {s t : State} {a : Access} {rest : List Input} (h : accessStep a rest s = .next t) :
    t.params = s.params := by
  unfold accessStep at h
  split at h
  · exact engineStep_params h
  · cases h
    exact State.hostAccess_params _ a

/-- No step of any agent changes the parameters. -/
theorem step_params {s t : State} (h : step s = .next t) : t.params = s.params := by
  unfold step nextStep at h
  split at h
  · exact engineStep_params h
  · exact (engineStep_params h :)
  · cases h
    rfl
  · exact accessStep_params h
  · split at h
    · exact accessStep_params h
    · cases h

/-! ## The two resets (R290, R292) -/

theorem sameBlock_toReset (s : State) : SameBlock State.reset s.toReset :=
  ⟨rfl, rfl, rfl, ⟨rfl, rfl, rfl⟩, ⟨rfl, rfl, rfl⟩, rfl, ⟨rfl, rfl, rfl, rfl⟩, ⟨rfl, rfl, rfl⟩⟩

/-- A write of `CTRL` with bit 63 set is a soft reset, whatever the other bits (R292). -/
theorem State.hostWrite_srst {s : State} {v : Word} (h : v.getLsbD 63 = true) : s.hostWrite 0x001 v = s.toReset := by
  rw [State.hostWrite_ctrl, State.writeCtrl_reset h]

/-- The reset input acts at once, also while a command runs (R290, R294). -/
theorem step_of_rst {s : State} {rest : List Input} (h : s.inputs = .rst :: rest) :
    step s = .next (s.setInputs rest).toReset := by
  simp only [step, nextStep, h]

/-! ## The platform bridge (R71, R72) -/

/-- Bit `i` of the word that bytes make is bit `i % 8` of byte `i / 8`: little-endian order. -/
theorem bytesWord_getLsbD (bs : List (BitVec 8)) {i : Nat} (hi : i < 64) :
    (bytesWord bs).getLsbD i = (bs.getD (i / 8) 0#8).getLsbD (i % 8) := by
  induction bs generalizing i with
  | nil => simp [bytesWord]
  | cons b bs ih =>
    have hbit : (bytesWord (b :: bs)).getLsbD i = (!decide (i < 8) && (bytesWord bs).getLsbD (i - 8) || b.getLsbD i) := by
      rw [bytesWord, List.foldr_cons, ← bytesWord, BitVec.getLsbD_or, BitVec.getLsbD_shiftLeft, BitVec.getLsbD_setWidth,
        decide_eq_true hi, Bool.true_and, Bool.true_and]
    rw [hbit]
    rcases Nat.lt_or_ge i 8 with hlow | hhigh
    · rw [Nat.div_eq_of_lt hlow, Nat.mod_eq_of_lt hlow]
      simp [hlow]
    · have hdiv : i / 8 = (i - 8) / 8 + 1 := by omega
      have hmod : i % 8 = (i - 8) % 8 := by omega
      rw [ih (by omega), hdiv, hmod, List.getD_cons_succ, BitVec.getLsbD_of_ge b i hhigh]
      simp [hhigh]

/-- The eight bytes of a word, the lowest first, make the word. -/
theorem bytesWord_of_bytes {w : Word} {bytes : List (BitVec 8)}
    (h : ∀ k, k < 8 → bytes[k]? = some (w.extractLsb' (8 * k) 8)) : bytesWord bytes = w := by
  apply BitVec.eq_of_getLsbD_eq
  intro i hi
  rw [bytesWord_getLsbD bytes hi, List.getD_eq_getElem?_getD, h (i / 8) (by omega), Option.getD_some,
    BitVec.getLsbD_extractLsb', decide_eq_true (Nat.mod_lt i (by decide)), Bool.true_and, Nat.div_add_mod]

theorem bridgeForwards_word {base : Nat} (hbase : base % 8 = 0) (off : Nat) :
    bridgeForwards base (base + 8 * off) 8 = true := by
  rw [bridgeForwards, decide_eq_true_eq]
  omega

theorem bridgeForwards_eq_false {addr size : Nat} (h : size ≠ 8 ∨ addr % 8 ≠ 0) (base : Nat) :
    bridgeForwards base addr size = false := by
  rw [bridgeForwards, decide_eq_false_iff_not]
  omega

theorem bridge_offset (base off : Nat) : (base + 8 * off - base) / 8 = off := by omega

theorem step_of_bus {s : State} {x : BusAccess} {a : Access} {rest : List Input} (h : s.inputs = .bus x :: rest)
    (hx : bridge Config.windowBase x = some a) : step s = accessStep a rest s := by
  simp only [step, nextStep, h, hx]

theorem step_of_bus_none {s : State} {x : BusAccess} {rest : List Input} (h : s.inputs = .bus x :: rest)
    (hx : bridge Config.windowBase x = none) : step s = .refused .busAccessNotForwarded := by
  simp only [step, nextStep, h, hx]

/-! ## The layout of `STATUS` and `CTRL` (R25, R26) -/

theorem State.statusWord_bits (s : State) : s.statusWord.getLsbD 0 = s.busy ∧ s.statusWord.getLsbD 1 = s.done ∧
    s.statusWord.getLsbD 2 = s.errf ∧ s.statusWord.getLsbD 3 = s.buserr ∧ s.statusWord.getLsbD 4 = s.cmddrop := by
  simp only [State.statusWord, BitVec.getLsbD_append]
  simp

theorem State.statusWord_fields (s : State) : s.statusWord.extractLsb' 5 3 = 0#3 ∧ s.statusWord.extractLsb' 8 8 = s.err ∧
    s.statusWord.extractLsb' 16 8 = BitVec.ofNat 8 s.basisM ∧ s.statusWord.extractLsb' 24 40 = 0#40 := by
  refine ⟨?_, ?_, ?_, ?_⟩ <;>
    (ext i hi
     simp (disch := omega) only [State.statusWord, BitVec.getElem_extractLsb', BitVec.getLsbD_append, if_neg, if_pos]
     rw [← BitVec.getLsbD_eq_getElem]
     congr 1
     omega)

theorem State.ctrlWord_fields (s : State) : s.ctrlWord.getLsbD 0 = s.width.toBool ∧ s.ctrlWord.getLsbD 1 = s.ieDone ∧
    s.ctrlWord.getLsbD 2 = s.ieErr ∧ s.ctrlWord.extractLsb' 3 61 = 0#61 := by
  refine ⟨?_, s.ctrlWord_ieDone, s.ctrlWord_ieErr, ?_⟩
  · simp only [State.ctrlWord, BitVec.getLsbD_append]
    simp
  · ext i hi
    simp (disch := omega) only [State.ctrlWord, BitVec.getElem_extractLsb', BitVec.getLsbD_append, if_neg]
    simp

end Sys2Proof.Machine

namespace Sys2Proof.Proofs

open Sys2Proof.Machine Sys2Proof.Reference

/-- Settles O60: no agent's step reaches the parameters, both resets are `toReset`, and `ID` and `PARAM` read the same in every
state (R33, R34, R291). -/
theorem parametersAndConstantsSurviveReset : Obligations.ParametersAndConstantsSurviveReset := by
  have hconst (s t : State) : t.window 0x000 = s.window 0x000 ∧ t.window 0x006 = s.window 0x006 := by
    obtain ⟨hid, hparam, -⟩ := idAndParamAreConstant s
    obtain ⟨hid', hparam', -⟩ := idAndParamAreConstant t
    exact ⟨hid'.trans hid.symm, hparam'.trans hparam.symm⟩
  refine ⟨fun s t h => step_params h, fun s v hv => ?_, fun s rest h => ?_⟩
  · rw [State.hostWrite_srst hv]
    exact ⟨sameBlock_toReset s, rfl, hconst s _⟩
  · exact ⟨_, step_of_rst h, sameBlock_toReset _, rfl, hconst s _⟩

/-- Settles O12: a write of `CTRL` with bit 63 set and the reset input are both `toReset`; the write waits while a command runs
(R69, R292, R294). -/
theorem resetsLeaveTheResetState : Obligations.ResetsLeaveTheResetState := by
  refine ⟨fun s v hv => ?_, fun s v rest _ hb h => inputs_of_held h hb (heldWhileBusy_write (by decide) v),
    fun s rest h => ⟨_, step_of_rst h, sameBlock_toReset _, rfl⟩⟩
  rw [State.hostWrite_srst hv]
  exact sameBlock_toReset s

/-- Settles O9: what is not held takes effect at once; for the rest the ENGINE moves, which completes the command unless the
entropy port is dead (R69, R304). -/
theorem heldAccessesWaitForCompletion : Obligations.HeldAccessesWaitForCompletion := by
  refine ⟨fun s a rest h hb => ⟨fun hfree => ?_, fun hread hwrite => ?_⟩, fun s a rest h hb => ?_⟩
  · exact step_of_not_held h (by rw [heldWhileBusy_eq_false_iff.mpr hfree, Bool.and_false])
  · have ha : heldWhileBusy a = true := by
      by_contra hfree
      rcases heldWhileBusy_eq_false_iff.mp (Bool.eq_false_iff.mpr hfree) with ⟨off, hoff, rfl⟩ | ⟨v, rfl⟩
      · exact hread off hoff rfl
      · exact hwrite v rfl
    obtain ⟨t, ht, hframe⟩ := CommandFrame.leads_engineStep s
    exact ⟨t, (step_of_held h hb ha).trans ht, hframe.inputs, hframe.buserr, hframe.cmddrop, idle_of_engineStep ht⟩
  · exact step_of_not_held h (by rw [hb, Bool.false_and])

/-- Settles O20: an aligned word is forwarded with its bytes in little-endian order, nothing else is, and a forwarded access is
held or taken as any other (R69, R71, R72). -/
theorem bridgeForwardsWholeAlignedWords : Obligations.BridgeForwardsWholeAlignedWords := by
  refine ⟨fun base off hbase => ?_, fun base off w bytes hbase hlen hbytes => ?_, fun base addr size h => ?_,
    fun base addr bytes h => ?_, fun s x rest h hx => step_of_bus_none h hx,
    fun s x a rest h hx => ⟨fun hfree => ?_, fun hb ha => ?_⟩⟩
  · rw [bridge, bridgeForwards_word hbase, if_pos rfl, bridge_offset]
  · rw [bridge, hlen, bridgeForwards_word hbase, if_pos rfl, bridge_offset, bytesWord_of_bytes hbytes]
  · rw [bridge, bridgeForwards_eq_false h, if_neg Bool.false_ne_true]
  · rw [bridge, bridgeForwards_eq_false h, if_neg Bool.false_ne_true]
  · rw [step_of_bus h hx, accessStep_free]
    rcases hfree with hb | ha
    · rw [hb, Bool.false_and]
    · rw [ha, Bool.and_false]
  · obtain ⟨t, ht, hframe⟩ := CommandFrame.leads_engineStep s
    exact ⟨t, by rw [step_of_bus h hx, accessStep_held hb ha, ht], hframe.inputs⟩

/-- Settles O1: wherever the host does not move, the ENGINE runs the word in flight, which an accepted write of `CMD` has put
there (R244 to R246). -/
theorem stepRunsAcceptedCommand : Obligations.StepRunsAcceptedCommand := by
  refine ⟨fun s w i hd hs => ⟨fun h => ?_, fun rest h => ?_, fun a rest h ha => ?_⟩, fun s nbits v i hd => ?_,
    fun s w i rest hd hb he h hrest => ⟨_, step_cmdWrite hb he h, rfl, ?_⟩⟩
  · rw [step_of_inputs_nil h, engineStep_of_decode hd hs]
  · exact (step_of_idle h).trans (engineStep_of_decode hd hs)
  · rw [step_of_held h (State.busy_of_inflight hs) ha, engineStep_of_decode hd hs]
  · rw [step_withFetchWord, engineStep_of_decode hd rfl]
  · rcases hrest with rfl | ⟨a, more, rfl, ha⟩
    · rw [step_of_inputs_nil rfl, engineStep_of_decode hd rfl]
    · rw [step_of_held rfl rfl ha, engineStep_of_decode hd rfl]

/-- Settles O17: the two words are concatenations of their fields, and the other three are read as they are held (R25 to R27,
R32). -/
theorem statusAndControlLayout : Obligations.StatusAndControlLayout := by
  intro s
  obtain ⟨hbusy, hdone, herrf, hbuserr, hdrop⟩ := s.statusWord_bits
  obtain ⟨hlow, herr, hspan, hhigh⟩ := s.statusWord_fields
  refine ⟨⟨s.statusWord, rfl, hbusy, hdone, herrf, hbuserr, hdrop, hlow, herr, ?_, hhigh⟩,
    ⟨s.ctrlWord, rfl, s.ctrlWord_fields⟩, rfl, rfl, rfl⟩
  rw [hspan, BitVec.toNat_ofNat]

/-- Settles O57: the reset state is what a reset leaves of it, without elements, basis, error and command (R38). -/
theorem resetMeetsTheInvariant : Obligations.ResetMeetsTheInvariant := State.Inv.toReset State.reset

end Sys2Proof.Proofs

/-!
PROOFS. The three multiplying commands and FRAND (40_field_kernel.md section 2), and what an active basis has: its points form a
space under the exclusive or, on which only index 0 is the point 0 (41_basis.md R153).
-/

namespace Sys2Proof

open Laws Reference

theorem assembles_fmul (d a b : EReg) : Assembles (.fmul d a b) 0x13 d.val a.val b.val 0 0 :=
  assembles_of_row 0x13#8 (ofEReg d) (ofEReg a) (ofEReg b) 0 0 (row_mem 4 (by decide)) (EncodingFits.fmul d a b) rfl rfl rfl rfl

theorem assembles_fmuln (d a b : EReg) : Assembles (.fmuln d a b) 0x14 d.val a.val b.val 0 0 :=
  assembles_of_row 0x14#8 (ofEReg d) (ofEReg a) (ofEReg b) 0 0 (row_mem 5 (by decide)) (EncodingFits.fmuln d a b) rfl rfl rfl rfl

theorem assembles_fsqr (d a : EReg) : Assembles (.fsqr d a) 0x15 d.val a.val 0 0 0 :=
  assembles_of_row 0x15#8 (ofEReg d) (ofEReg a) 0 0 0 (row_mem 6 (by decide)) (EncodingFits.fsqr d a) rfl rfl rfl rfl

theorem assembles_frand (d : EReg) : Assembles (.frand d) 0x19 d.val 0 0 0 0 :=
  assembles_of_row 0x19#8 (ofEReg d) 0 0 0 0 (row_mem 10 (by decide)) (EncodingFits.frand d) rfl rfl rfl rfl

end Sys2Proof

namespace Sys2Proof.Machine

open Reference

/-- The two-step multiplier on two registers is the reference multiplier on their contents (R123, R129). -/
theorem State.mul_readE (s : State) (a b : EReg) :
    s.field.mul (s.readE a) (s.readE b) = s.field.mulNaive (reg s a) (reg s b) := by
  rw [← s.readE_eq_reg, ← s.readE_eq_reg, s.fieldOk.mul_eq_mulNaive (s.readE_lt a) (s.readE_lt b)]

/-! ## The draw (R139, R140) -/

/-- Words that are zero in the field are passed over. -/
theorem takeNonzero_append {mask : Word} {zs : List Word} (h : ∀ z ∈ zs, z &&& mask = 0#64) (ws : List Word) :
    takeNonzero mask (zs ++ ws) = takeNonzero mask ws := by
  induction zs with
  | nil => rfl
  | cons z zs ih =>
    obtain ⟨hz, hzs⟩ := List.forall_mem_cons.mp h
    rw [List.cons_append, takeNonzero, if_pos hz, ih hzs]

theorem freeDraw_ne_zero (W : Width) (k : Nat) : freeDraw W k ≠ 0#64 := by
  intro h
  have hval := congrArg BitVec.toNat h
  cases W with
  | gf16 =>
    have hlt := (Config.draw16 k).isLt
    simp only [freeDraw, BitVec.toNat_ofNat] at hval
    omega
  | gf64 =>
    have hlt := (Config.draw64 k).isLt
    simp only [freeDraw, BitVec.toNat_ofNat] at hval
    omega

section Draw

variable {s : State} (d : EReg)

/-- The pending words answer with the first that is not zero in the field. -/
theorem exec_frand_of_pending {zs ws : List Word} {w : Word} (h : s.entropy = zs ++ w :: ws)
    (hzs : ∀ z ∈ zs, narrow s.width z = 0#64) (hw : narrow s.width w ≠ 0#64) :
    exec (.frand d) s = finish ((s.setEntropy ws).writeE d (narrow s.width w)) := by
  simp only [← s.and_mask_eq_narrow] at hzs hw ⊢
  have htake : takeNonzero s.field.mask s.entropy = some (w &&& s.field.mask, ws) := by
    rw [h, takeNonzero_append hzs, takeNonzero, if_neg hw]
  simp only [exec, execFrand, htake]

variable (hz : ∀ z ∈ s.entropy, narrow s.width z = 0#64)
include hz

theorem takeNonzero_of_zeros : takeNonzero s.field.mask s.entropy = none := by
  simp only [← s.and_mask_eq_narrow] at hz
  rw [← List.append_nil s.entropy, takeNonzero_append hz, takeNonzero]

theorem exec_frand_of_live (hlive : s.entropyDead = false) :
    exec (.frand d) s = finish ((s.setEntropy []).nextDraw.writeE d (freeDraw s.width s.draws)) := by
  simp only [exec, execFrand, takeNonzero_of_zeros hz, hlive, Bool.false_eq_true, if_false]

theorem exec_frand_of_dead (hdead : s.entropyDead = true) : exec (.frand d) s = .next (s.setEntropy []) := by
  simp only [exec, execFrand, takeNonzero_of_zeros hz, hdead, if_true]

end Draw

/-- FRAND changes its register and the entropy port. -/
theorem Completes.draw (s : State) (d : EReg) (v : Word) (ws : List Word) (k : Nat) : Completes [d] [] false s
    { s with e := s.e.set d v, entropy := ws, draws := k, inflight := none, done := true } :=
  .of_update (fun j hj => (s.writeE_get d v j).trans (if_neg (Ne.symm (List.mem_singleton.not.mp hj)))) fun _ _ => rfl

/-! ## The points of a basis (R153) -/

/-- The highest bit stands apart from the bits below it. -/
theorem two_pow_add_eq_xor {i j : Nat} (h : j < 2 ^ i) : 2 ^ i + j = 2 ^ i ^^^ j := by
  have hdiv : (2 ^ i ^^^ j) / 2 ^ i = 1 := by
    rw [Nat.xor_div_two_pow, Nat.div_self (Nat.two_pow_pos i), Nat.div_eq_of_lt h, Nat.xor_zero]
  have hmod : (2 ^ i ^^^ j) % 2 ^ i = j := by
    rw [Nat.xor_mod_two_pow, Nat.mod_self, Nat.mod_eq_of_lt h, Nat.zero_xor]
  rw [← Nat.div_add_mod (2 ^ i ^^^ j) (2 ^ i), hdiv, hmod, Nat.mul_one]

/-- An index of `i + 1` bits without its highest bit, where that is set. -/
theorem eq_two_pow_xor {i x : Nat} (hx : x < 2 ^ (i + 1)) (hhigh : 2 ^ i ≤ x) : ∃ j, j < 2 ^ i ∧ x = 2 ^ i ^^^ j := by
  rw [Nat.pow_succ'] at hx
  have hj : x - 2 ^ i < 2 ^ i := by omega
  exact ⟨x - 2 ^ i, hj, by rw [← two_pow_add_eq_xor hj, Nat.add_sub_cancel' hhigh]⟩

/-- Only the point at index 0 is 0: `S` takes the point `e` to the point `e / 2`, and the point 1 is One. -/
theorem GF.Points.eq_zero {F : GF} (hF : FieldOk F) {m : Nat} {comb sub : List Word} (h : F.Points m comb sub) {e : Nat}
    (he : e < 2 ^ m) (h0 : F.coeffs comb e = 0) : e = 0 := by
  induction e using Nat.strong_induction_on with
  | _ e ih =>
    by_contra hne
    have hhalf : F.coeffs comb (e / 2) = 0 := by rw [← h.half e he, h0, pow_two, mul_zero, add_zero]
    have hzero := ih (e / 2) (by omega) (by omega) hhalf
    obtain rfl : e = 1 := by omega
    have hone := h.odd 0 (Nat.two_pow_pos _)
    rw [Nat.mul_zero, h.zero, zero_add, zero_add, h0, ← F.residue_one, ← F.residue_zero (k := 64)] at hone
    exact absurd (hF.eq_of_residue_eq (.zero _) (.one hF.width.1) hone) (by decide)

end Sys2Proof.Machine

namespace Sys2Proof.Reference

open Sys2Proof.Machine

section Points

variable {F : GF} {g0 : Word} {m : Nat} {basis comb sub : List Word} (h : TablesAre F g0 m basis comb sub)
include h

/-- The point with the bit `i` set is the point without it plus a basis element (R153). -/
theorem TablesAre.comb_toggle {i j : Nat} (hi : i < m) (hj : j < 2 ^ i) :
    at' comb (2 ^ i ^^^ j) = at' comb j ^^^ at' basis (m - 1 - i) := by
  rw [← two_pow_add_eq_xor hj, h.combEntry i hi j hj]

/-- The points are closed under addition, index by index (R153). -/
theorem TablesAre.comb_xor {i x y : Nat} (hi : i ≤ m) (hx : x < 2 ^ i) (hy : y < 2 ^ i) :
    at' comb (x ^^^ y) = at' comb x ^^^ at' comb y := by
  induction i generalizing x y with
  | zero =>
    obtain ⟨rfl, rfl⟩ : x = 0 ∧ y = 0 := by omega
    rw [Nat.xor_self, h.combZero, BitVec.xor_self]
  | succ i ih =>
    have htop {j : Nat} (hj : j < 2 ^ i) := h.comb_toggle hi hj
    have hlow {x y : Nat} (hx : x < 2 ^ i) (hy : y < 2 ^ i) := ih (Nat.le_of_succ_le hi) hx hy
    rcases Nat.lt_or_ge x (2 ^ i) with hxl | hxh
    · rcases Nat.lt_or_ge y (2 ^ i) with hyl | hyh
      · exact hlow hxl hyl
      · obtain ⟨y, hyl, rfl⟩ := eq_two_pow_xor hy hyh
        rw [Nat.xor_left_comm, htop (Nat.xor_lt_two_pow hxl hyl), htop hyl, hlow hxl hyl, BitVec.xor_assoc]
    · obtain ⟨x, hxl, rfl⟩ := eq_two_pow_xor hx hxh
      rcases Nat.lt_or_ge y (2 ^ i) with hyl | hyh
      · rw [Nat.xor_assoc, htop (Nat.xor_lt_two_pow hxl hyl), htop hxl, hlow hxl hyl]
        ac_rfl
      · obtain ⟨y, hyl, rfl⟩ := eq_two_pow_xor hy hyh
        rw [Nat.xor_assoc, Nat.xor_left_comm x, Nat.xor_xor_cancel_left, htop hxl, htop hyl, hlow hxl hyl,
          BitVec.xor_comm (at' comb y), ← BitVec.xor_assoc, BitVec.xor_assoc (at' comb x), BitVec.xor_self, BitVec.xor_zero]

end Points

end Sys2Proof.Reference

namespace Sys2Proof.Machine

open Reference

section HasBasis

variable {s : State} (hs : s.HasBasis)
include hs

/-- The tables of an active basis entry by entry, the last basis element being One (R151 to R154). -/
theorem State.HasBasis.tablesAre :
    (∃ g0, TablesAre s.field g0 s.basisM s.basis s.comb s.sub) ∧ at' s.basis (s.basisM - 1) = 1#64 := by
  have h1 := hs.one_le_basisM
  obtain ⟨-, hspan, g0, -, htower, hbasis, hcomb, hsub⟩ := hs
  have hn : s.basisM ≤ s.field.n := hspan.trans (Nat.min_le_left _ _)
  have htables := Machine.tablesAre h1 hn g0
  rw [← hbasis, ← hcomb, ← hsub] at htables
  rw [getLast?_tower s.fieldOk.width.1, Option.some_inj] at htower
  refine ⟨⟨g0, htables⟩, ?_⟩
  rw [htables.basisEntry _ (by omega), ← htower]
  congr 1
  omega

/-- Two points at different indices are different: their sum is the point at another index than 0 (R153). -/
theorem State.HasBasis.comb_injective {x y : Nat} (hx : x < 2 ^ s.basisM) (hy : y < 2 ^ s.basisM)
    (h : at' s.comb x = at' s.comb y) : x = y := by
  obtain ⟨⟨g0, htables⟩, -⟩ := hs.tablesAre
  have hzero : at' s.comb (x ^^^ y) = 0#64 := by rw [htables.comb_xor le_rfl hx hy, h, BitVec.xor_self]
  refine Nat.xor_eq_zero_iff.mp (hs.points.eq_zero s.fieldOk (Nat.xor_lt_two_pow hx hy) ?_)
  rw [GF.coeffs, hzero, s.field.residue_zero]

theorem State.HasBasis.nodup_comb : s.comb.Nodup := by
  rw [List.nodup_iff_injective_getElem]
  rintro ⟨i, hi⟩ ⟨j, hj⟩ h
  have hlen := hs.length_comb
  refine Fin.ext (hs.comb_injective (hlen ▸ hi) (hlen ▸ hj) ?_)
  simpa [at', hi, hj] using h

end HasBasis

end Sys2Proof.Machine

namespace Sys2Proof.Proofs

open Sys2Proof.Machine Sys2Proof.Reference

/-- Settles O28: the two multipliers agree on the contents of registers (R133, R134, R135). -/
theorem multiplyAndSquare : Obligations.MultiplyAndSquare := by
  refine ⟨fun d a b => ⟨assembles_fmul d a b, scalarResult fun s => ?_⟩,
    fun d a b => ⟨assembles_fmuln d a b, scalarResult fun s => ?_⟩,
    fun d a => ⟨assembles_fsqr d a, scalarResult fun s => ?_⟩⟩
  · rw [← s.mul_readE]
    rfl
  · rw [← s.readE_eq_reg, ← s.readE_eq_reg]
    rfl
  · rw [← s.mul_readE]
    rfl

/-- Settles O35: the first pending word that counts, else a free nonzero element, or no completion if the port is dead (R139, R140,
U7). -/
theorem randomDrawIsNonzero : Obligations.RandomDrawIsNonzero := by
  refine ⟨assembles_frand,
    fun s d zs w ws h hzs hw => ⟨_, exec_frand_of_pending d h hzs hw, by simp, rfl, rfl, rfl, .draw s d _ _ _⟩,
    fun s d hz hlive => ⟨_, exec_frand_of_live d hz hlive, ?_, ?_, rfl, rfl, rfl, .draw s d _ _ _⟩,
    fun s d hz hdead => exec_frand_of_dead d hz hdead⟩
  · simpa using freeDraw_ne_zero s.width s.draws
  · simpa using isElem_freeDraw s.width s.draws

/-- Settles O37: the tables entry by entry, and only the index 0 has the point 0 (R29 to R31, R153). -/
theorem activeBasisFacts : Obligations.ActiveBasisFacts := by
  intro s hs
  obtain ⟨⟨g0, htables⟩, hlast⟩ := hs.tablesAre
  refine ⟨htables.basisLength, htables.combLength, htables.subLength, hlast, htables.combZero, ?_, hs.nodup_comb,
    fun x y hx hy => htables.comb_xor le_rfl hx hy⟩
  have hone := htables.combEntry 0 hs.one_le_basisM 0 (by decide)
  rwa [htables.combZero, Nat.sub_zero, hlast, BitVec.zero_xor] at hone

end Sys2Proof.Proofs

/-!
PROOFS. The default polynomials (00_scope.md R6, R7). That of GF(2^64) is irreducible by a criterion on repeated squarings of `x`:
a factor of degree at most `2^r`, where the polynomial has degree `2^(r+1)`, would have a root that `2^r` squarings fix.
-/

namespace Sys2Proof.Machine

open Polynomial

/-- `x` as a word. -/
theorem GF.residue_two (F : GF) : F.residue 2#64 = AdjoinRoot.root (toPoly F.poly) := by
  have h : toPoly 2#64 = X := by
    ext i
    have hbit : (2#64).getLsbD i = decide (1 = i) := by
      rw [BitVec.getLsbD_ofNat, show (2 : Nat) = 2 ^ 1 from rfl, Nat.testBit_two_pow]
      simp only [Bool.and_eq_right_iff_imp, decide_eq_true_eq]
      omega
    rw [toPoly_coeff, coeff_X, hbit]
    simp
  rw [GF.residue, h, AdjoinRoot.mk_X]

theorem IsElem.two {n : Nat} (h : 1 < n) : IsElem n 2#64 := Nat.pow_lt_pow_right (a := 2) (m := 1) (by decide) h

/-- A word above 1 stands for no constant. -/
theorem natDegree_toPoly_pos {w : Word} (h : 1 < w.toNat) : 0 < (toPoly w).natDegree := by
  rw [natDegree_pos_iff_degree_pos, ← not_le, ← Nat.WithBot.lt_one_iff_le_zero, ← Nat.cast_one, toPoly_degree_lt]
  omega

/-- The residues modulo an irreducible polynomial of degree `d` are a field of `2^d` elements, in which `d` squarings change
nothing. -/
theorem root_pow_two_pow_natDegree {g : (ZMod 2)[X]} (hg : Irreducible g) :
    AdjoinRoot.root g ^ 2 ^ g.natDegree = AdjoinRoot.root g := by
  have hirr : Fact (Irreducible g) := ⟨hg⟩
  have hfin : Module.Finite (ZMod 2) (AdjoinRoot g) := (AdjoinRoot.powerBasis hg.ne_zero).finite
  have hfinite : Finite (AdjoinRoot g) := Module.finite_of_finite (ZMod 2)
  have hcard : Nat.card (AdjoinRoot g) = 2 ^ g.natDegree := by
    rw [Module.natCard_eq_pow_finrank (K := ZMod 2), Nat.card_zmod, (AdjoinRoot.powerBasis hg.ne_zero).finrank,
      AdjoinRoot.powerBasis_dim]
  have hfintype := Fintype.ofFinite (AdjoinRoot g)
  rw [← hcard, Nat.card_eq_fintype_card]
  exact FiniteField.pow_card _

/-- A root of an irreducible polynomial of degree at most `2^r` that `2^(r+1)` squarings fix is fixed by `2^r` of them: it is fixed
by as many as the degree, and the greatest common divisor of the degree and `2^(r+1)` divides `2^r`. -/
theorem root_pow_of_fixed {g : (ZMod 2)[X]} (hg : Irreducible g) {r : Nat} (hdeg : g.natDegree ≤ 2 ^ r)
    (hfix : AdjoinRoot.root g ^ 2 ^ 2 ^ (r + 1) = AdjoinRoot.root g) :
    AdjoinRoot.root g ^ 2 ^ 2 ^ r = AdjoinRoot.root g := by
  have hirr : Fact (Irreducible g) := ⟨hg⟩
  have hiter (k : Nat) : Function.IsPeriodicPt (fun y : AdjoinRoot g => y ^ 2) k (AdjoinRoot.root g) ↔
      AdjoinRoot.root g ^ 2 ^ k = AdjoinRoot.root g := by
    rw [Function.IsPeriodicPt, Function.IsFixedPt, pow_iterate]
  have hdvd : g.natDegree.gcd (2 ^ (r + 1)) ∣ 2 ^ r := by
    obtain ⟨k, hk, hgcd⟩ := (Nat.dvd_prime_pow Nat.prime_two).mp (Nat.gcd_dvd_right g.natDegree (2 ^ (r + 1)))
    have hle : 2 ^ k ≤ 2 ^ r := hgcd ▸ (Nat.gcd_le_left _ hg.natDegree_pos).trans hdeg
    rw [hgcd]
    exact Nat.pow_dvd_pow 2 ((Nat.pow_le_pow_iff_right (by decide)).mp hle)
  have hcard := (hiter _).mpr (root_pow_two_pow_natDegree hg)
  exact (hiter _).mp ((hcard.gcd ((hiter _).mpr hfix)).trans_dvd hdvd)

end Sys2Proof.Machine

namespace Sys2Proof.Reference

open Sys2Proof.Machine Polynomial

section Frobenius

variable {F : GF} (hF : FieldOk F)
include hF

/-- Squaring again and again. -/
theorem FieldOk.residue_iterate_sqr {a : Word} (ha : IsElem F.n a) (k : Nat) :
    IsElem F.n (F.sqr^[k] a) ∧ F.residue (F.sqr^[k] a) = F.residue a ^ 2 ^ k := by
  induction k with
  | zero => exact ⟨ha, by rw [pow_zero, pow_one, Function.iterate_zero_apply]⟩
  | succ k ih =>
    obtain ⟨helem, hres⟩ := ih
    rw [Function.iterate_succ_apply']
    exact ⟨hF.mul helem _, by rw [GF.sqr_eq, hF.residue_mul helem helem, hres, ← pow_add, ← two_mul, ← pow_succ']⟩

variable {r : Nat} (hn : F.n = 2 ^ (r + 1)) (hfix : F.sqr^[2 ^ (r + 1)] 2#64 = 2#64) {v : Word} (hv : IsElem F.n v)
  (hinv : F.mul v (F.sqr^[2 ^ r] 2#64 ^^^ 2#64) = 1#64)
include hn hfix hv hinv

/-- No irreducible factor of the polynomial has degree at most `2^r`: modulo it `x` is fixed by `2^(r+1)` squarings, hence by
`2^r`, but `x^(2^(2^r)) + x` has an inverse. -/
theorem FieldOk.not_dvd_poly {g : (ZMod 2)[X]} (hg : Irreducible g) (hdeg : g.natDegree ≤ 2 ^ r) :
    ¬ g ∣ toPoly F.poly := by
  intro hdvd
  have hirr : Fact (Irreducible g) := ⟨hg⟩
  obtain ⟨φ, hφ⟩ : ∃ φ : AdjoinRoot (toPoly F.poly) →+* AdjoinRoot g, φ (F.residue 2#64) = AdjoinRoot.root g :=
    ⟨(AdjoinRoot.algHomOfDvd (ZMod 2) _ g hdvd).toRingHom, by rw [F.residue_two]; exact AdjoinRoot.algHomOfDvd_root _ g hdvd⟩
  have htwo : IsElem F.n 2#64 := .two (by have := Nat.two_pow_pos r; omega)
  have hall := congrArg φ (hF.residue_iterate_sqr htwo (2 ^ (r + 1))).2
  rw [hfix, map_pow, hφ] at hall
  obtain ⟨helem, hhalf⟩ := hF.residue_iterate_sqr htwo (2 ^ r)
  have hone := congrArg φ (congrArg F.residue hinv)
  rw [hF.residue_mul hv (helem.xor htwo), F.residue_xor, hhalf, F.residue_one, map_mul, map_add, map_pow, hφ,
    root_pow_of_fixed hg hdeg hall.symm, map_one, ← hφ, ← map_add, ← two_mul, F.two_eq_zero, zero_mul, map_zero,
    mul_zero] at hone
  exact zero_ne_one hone

theorem FieldOk.lt_natDegree_of_dvd {f : (ZMod 2)[X]} (hf : 0 < f.natDegree) (hdvd : f ∣ toPoly F.poly) :
    2 ^ r < f.natDegree := by
  by_contra hle
  have hf0 : f ≠ 0 := ne_zero_of_natDegree_gt hf
  obtain ⟨g, hg, hgf⟩ := WfDvdMonoid.exists_irreducible_factor (not_isUnit_of_natDegree_pos f hf) hf0
  exact hF.not_dvd_poly hn hfix hv hinv hg ((natDegree_le_of_dvd hgf hf0).trans (Nat.le_of_not_lt hle)) (hgf.trans hdvd)

/-- The criterion: both of two factors would have more than half of the polynomial's degree. -/
theorem FieldOk.irreducible_of_iterate_sqr : F.Irreducible := by
  intro a b ha hb ha1 hb1 h
  have hprod : toPoly F.poly = toPoly a * toPoly b := by rw [← h, toPoly_clmul hF.width.2 a b hb]
  have hfactor := @FieldOk.lt_natDegree_of_dvd F hF r hn hfix v hv hinv
  have hda := hfactor (natDegree_toPoly_pos ha1) (Dvd.intro _ hprod.symm)
  have hdb := hfactor (natDegree_toPoly_pos hb1) (Dvd.intro_left _ hprod.symm)
  have hdeg := natDegree_eq_of_degree_eq_some hF.degree_poly
  rw [hprod, natDegree_mul (ne_zero_of_natDegree_gt hda) (ne_zero_of_natDegree_gt hdb), hn, Nat.pow_succ] at hdeg
  omega

end Frobenius

end Sys2Proof.Reference

namespace Sys2Proof.Machine

/-! ## The default polynomial of GF(2^64) (R6, R7) -/

theorem gf64_iterate_sqr_half : GF.gf64.sqr^[2 ^ 5] 2#64 = 0x5C62_2367_7702_8505#64 := by decide +kernel

theorem gf64_iterate_sqr : GF.gf64.sqr^[2 ^ 6] 2#64 = 2#64 := by decide +kernel

/-- The inverse of `x^(2^32) + x`. -/
theorem gf64_mul_inverse :
    GF.gf64.mul 0x53CA_D161_BF5A_89C7#64 (GF.gf64.sqr^[2 ^ 5] 2#64 ^^^ 2#64) = 1#64 := by
  rw [gf64_iterate_sqr_half]
  decide +kernel

/-- The default polynomial of GF(2^64) is irreducible (R7). -/
theorem gf64_irreducible : GF.gf64.Irreducible :=
  (Config.defaults.fieldOk .gf64).irreducible_of_iterate_sqr (r := 5) rfl gf64_iterate_sqr (BitVec.isLt _) gf64_mul_inverse

end Sys2Proof.Machine

namespace Sys2Proof.Proofs

open Sys2Proof.Machine

/-- Settles O59: the 16-bit polynomial has no factor of degree at most 8, and the 64-bit one passes the criterion on repeated
squarings (R6, R7). -/
theorem defaultPolynomialsAreIrreducible : Obligations.DefaultPolynomialsAreIrreducible :=
  ⟨rfl, ⟨by decide, by decide, gf16_irreducible, gf64_irreducible⟩, GF.gf16_red, GF.gf64_red⟩

end Sys2Proof.Proofs
